-- ==== Sys2Proof/Word.lean ====
section
/-! DEFINITION. The two machine words of the em5820 CORE: the byte (R7, R8) and the binary64 sample (R7, R10).
Every other integer of the spec is a natural number without a width (R7, decision D3). -/

namespace Sys2Proof

/-- A byte, bit 0 the least significant (R8). -/
abbrev Byte := BitVec 8

/-- An IEEE 754 binary64 datum, held as its 64 bits (R10, decision D4): sign in bit 63, exponent field in bits 62..52,
fraction in bits 51..0. -/
abbrev F64 := BitVec 64

end Sys2Proof
end

