-- ==== Sys2Proof/Machine/Bytes.lean ====
section
/-! DEFINITION. Byte order (R9, R56): the low and high byte of a 16-bit field, its little-endian layout, and the reading of a
field back (R86). -/

namespace Sys2Proof

/-- `lo8(v) = v mod 256` (R9). -/
def lo8 (v : Nat) : Byte := BitVec.ofNat 8 (v % 256)

/-- `hi8(v) = (v div 256) mod 256` (R9). -/
def hi8 (v : Nat) : Byte := BitVec.ofNat 8 (v / 256 % 256)

/-- `LE16(v)`, for `v ≤ 65535` (R9, R56). -/
def le16 (v : Nat) : List Byte := [lo8 v, hi8 v]

/-- The value a reader recovers from the two bytes of a 16-bit field (R86). -/
def read16 (lo hi : Byte) : Nat := lo.toNat + 256 * hi.toNat

end Sys2Proof
end

