-- ==== Sys2Proof/Machine/Flags.lean ====
section
/-! DEFINITION. The CORE has no status flags or condition codes (R38). The one flag computation of the spec is the style flag
byte of SET_TEXT_STYLE (R83, R184). -/

namespace Sys2Proof

/-- The style flag byte (R184): bold = bit 3, double_height = bit 4, double_width = bit 5, underline = bit 7. -/
def styleFlags (bold underline doubleWidth doubleHeight : Bool) : Byte :=
  (if bold then 0x08#8 else 0#8) ||| (if doubleHeight then 0x10#8 else 0#8)
    ||| (if doubleWidth then 0x20#8 else 0#8) ||| (if underline then 0x80#8 else 0#8)

end Sys2Proof
end

