-- ==== Sys2Proof/Machine/Float.lean ====
section
/-! DEFINITION. The binary64 arithmetic of R10 (K3 of 93_implementation_defined.md: the IEEE 754 definition of the format and
of round-to-nearest, ties-to-even), computed with exact integers and one rounding per operation (decisions D4, D8). -/

namespace Sys2Proof

/-- The sign bit. -/
def F64.neg? (a : F64) : Bool := a.msb

/-- The exponent field, bits 62..52. -/
def F64.expField (a : F64) : Nat := a.toNat / 2 ^ 52 % 2048

/-- The fraction field, bits 51..0. -/
def F64.frac (a : F64) : Nat := a.toNat % 2 ^ 52

/-- A finite datum (R10: the CORE produces only finite ones). -/
def F64.isFinite (a : F64) : Bool := a.expField != 2047

/-- A NaN. -/
def F64.isNaN (a : F64) : Bool := a.expField == 2047 && a.frac != 0

/-- The magnitude of a finite datum in units of 2^-1074, the least positive binary64 value: an exact natural number.
(On an infinity the same formula gives 2^2098, above every finite magnitude, so that comparisons come out right.) -/
def F64.mag (a : F64) : Nat :=
  if a.expField = 0 then a.frac else (2 ^ 52 + a.frac) * 2 ^ (a.expField - 1)

/-- The exact value of a finite datum in units of 2^-1074. -/
def F64.scaled (a : F64) : Int := if a.neg? then -(a.mag : Int) else (a.mag : Int)

/-- IEEE `a > b` on the real values (R10): `-0.0 == +0.0`, and a NaN compares false. -/
def F64.gt (a b : F64) : Bool := !a.isNaN && !b.isNaN && decide (b.scaled < a.scaled)

/-- IEEE `a <= b` on the real values. -/
def F64.le (a b : F64) : Bool := !a.isNaN && !b.isNaN && decide (a.scaled ≤ b.scaled)

/-- IEEE `a == b` on the real values (R10). -/
def F64.eqv (a b : F64) : Bool := !a.isNaN && !b.isNaN && decide (a.scaled = b.scaled)

/-- The bits (sign clear) of the binary64 value nearest to `N · 2^-(1074+k)`, ties to the even significand; a value past the
largest finite one gives the infinity (R10, K3).
`d` bits of `N` are dropped: all `k` that lie below 2^-1074, and all below the 53rd significant bit. -/
def F64.roundMag (N k : Nat) : Nat :=
  let d := max (N.log2 + 1 - 53) k
  let q := N / 2 ^ d
  let r := N % 2 ^ d
  let up := decide (2 ^ d < 2 * r) || (decide (2 * r = 2 ^ d) && decide (q % 2 = 1))
  min ((d - k) * 2 ^ 52 + (if up then q + 1 else q)) (2047 * 2 ^ 52)

/-- A datum from its sign and its other 63 bits. -/
def F64.pack (neg : Bool) (magBits : Nat) : F64 :=
  BitVec.ofNat 64 (if neg then 2 ^ 63 + magBits else magBits)

/-- The literals of R10, R152 and R154, exact in binary64. -/
def F64.zero : F64 := 0x0000000000000000#64
/-- 1.0 -/
def F64.one : F64 := 0x3ff0000000000000#64
/-- 0.5 -/
def F64.half : F64 := 0x3fe0000000000000#64
/-- 7/16 = 0.4375 -/
def F64.k7 : F64 := 0x3fdc000000000000#64
/-- 3/16 = 0.1875 -/
def F64.k3 : F64 := 0x3fc8000000000000#64
/-- 5/16 = 0.3125 -/
def F64.k5 : F64 := 0x3fd4000000000000#64
/-- 1/16 = 0.0625 -/
def F64.k1 : F64 := 0x3fb0000000000000#64

/-- The NaN the arithmetic below answers with (no operation of the CORE reaches it, R159). -/
def F64.qNaN : F64 := 0x7ff8000000000000#64

/-- The datum with its sign changed. -/
def F64.negate (a : F64) : F64 := a ^^^ 0x8000000000000000#64

/-- `fl(a + b)` (R10): exact sum, one rounding. An exact zero sum is +0.0 unless both operands are -0.0 (K3). -/
def F64.add (a b : F64) : F64 :=
  if a.isNaN || b.isNaN then F64.qNaN
  else if !a.isFinite then (if !b.isFinite && a.neg? != b.neg? then F64.qNaN else a)
  else if !b.isFinite then b
  else if a.scaled + b.scaled = 0 then (if a.neg? && b.neg? then F64.pack true 0 else F64.zero)
  else F64.pack (decide (a.scaled + b.scaled < 0)) (F64.roundMag (a.scaled + b.scaled).natAbs 0)

/-- `fl(a - b)` (R10). -/
def F64.sub (a b : F64) : F64 := a.add b.negate

/-- `fl(a × b)` (R10): exact product, one rounding; the sign is the product of the signs (K3). -/
def F64.mul (a b : F64) : F64 :=
  if a.isNaN || b.isNaN then F64.qNaN
  else if !a.isFinite || !b.isFinite then
    (if a.mag = 0 || b.mag = 0 then F64.qNaN else F64.pack (a.neg? != b.neg?) (2047 * 2 ^ 52))
  else F64.pack (a.neg? != b.neg?) (F64.roundMag (a.mag * b.mag) 1074)

/-- A finite datum with `0.0 <= s <= 1.0`: what DITHER requires of each sample (R150). -/
def F64.isIntensity (a : F64) : Bool := a.isFinite && F64.zero.le a && a.le F64.one

end Sys2Proof
end

