-- ==== Sys2Proof/Config.lean ====
section
/-! DEFINITION. What the spec leaves to the implementation (R7, 92_eei_decisions.md "Open parameters"):
the parameters `LUM_POW` and `BITMAP_MODE_EXTRA`, and the transport oracle `TRANSPORT`.
`MAX_WIDTH` is the host-written `cfg` (R25); `TRANSPORT_CONFIG` lies outside the CORE (R5, R25). -/

namespace Sys2Proof

/-- Parameter `BITMAP_MODE_EXTRA`: a finite map from mode name to wire byte (R189, decision D12). -/
abbrev ModeMap := List (String × Byte)

/-- The parameters of one CORE that no program and no host move writes (R7, R25).
`lumPowTable` lists the values of `LUM_POW` that differ from the reference of R113: the empty list is the reference itself,
and every function of `Y1000 ∈ 0..255000` is the reference overridden on finitely many points. -/
structure Params where
  lumPowTable     : List (Nat × F64)
  bitmapModeExtra : ModeMap
  deriving DecidableEq, Repr

/-- The parameter values the spec gives as reference and default: the reference `LUM_POW` (R113) and no further
bitmap mode (R189). -/
def Params.reference : Params := { lumPowTable := [], bitmapModeExtra := [] }

/-- What the transport answers to one `send` (R35). -/
inductive TxResult where
  /-- the count of bytes the transport accepted -/
  | accepted (n : Nat)
  /-- the transport failed, with its reason -/
  | transportError (reason : String)
  deriving DecidableEq, Repr, Inhabited

/-- Parameter `TRANSPORT` (R7, R35, R245; log entry 3): the answer to the `k`-th call of the transport, when the environment
has not already fixed it in `State.txAnswers`. FREE VALUE: it has no body, so nothing can be proved of the answer. -/
opaque Config.transport : Nat → List Byte → TxResult

end Sys2Proof
end

