-- ==== Sys2Proof/Syntax.lean ====
section
/-! DEFINITION. The records the operations act on (R26-R29), the enums (R183, R189), the operations themselves, one
constructor of `Instr` per row of spec/opcode_table.json (R91), and the typed job operations (R210).

The operands of an `Instr` are raw: a natural number stands where the spec types a byte or an enum ordinal, so that an
operand outside its type can be written down and is refused with REF_OPERAND (R94). A `JobOp` is typed, as R210 has it. -/

namespace Sys2Proof

/-- DecodedImage (R26); `pixels` is interleaved, row-major, top-left origin (R52). -/
structure DecodedImage where
  width    : Nat
  height   : Nat
  channels : Nat
  pixels   : List Byte
  deriving DecidableEq, Repr

/-- GrayscaleRaster (R27): the sample of column `x`, row `y` at index `y·width + x` (R54); 0.0 is black, 1.0 white (R13). -/
structure GrayscaleRaster where
  width   : Nat
  height  : Nat
  samples : List F64
  deriving DecidableEq, Repr

/-- MonoRaster (R28): one value per pixel, 1 black ink and 0 white (R13). The element type admits values other than 0 and 1,
which the operations refuse (R170). -/
structure MonoRaster where
  width  : Nat
  height : Nat
  bits   : List Nat
  deriving DecidableEq, Repr

/-- PackedBitmap (R29): byte `j` of row `y` at offset `y·(width div 8) + j` (R55). -/
structure PackedBitmap where
  width  : Nat
  height : Nat
  bytes  : List Byte
  deriving DecidableEq, Repr

/-- The Alignment enum, closed, with exactly three values (R183). -/
inductive Alignment where
  | left | center | right
  deriving DecidableEq, Repr

/-- The BitmapMode enum (R189): NORMAL, and the modes parameter `BITMAP_MODE_EXTRA` may name. -/
inductive BitmapMode where
  | normal
  | extra (name : String)
  deriving DecidableEq, Repr

/-- Where an operation takes a raster operand from: the record of the transaction (R91), or the CORE's own buffer (R39, R50). -/
inductive Source (α : Type) where
  | given (v : α)
  | buffer
  deriving DecidableEq, Repr

/-- The operands of BITMAP_BLOCK beside the mode: taken from the register P, as in a job (R92), or given with the
transaction (R188). -/
inductive BitmapOperands where
  | fromP
  | given (width height : Nat) (packed : PackedBitmap)
  deriving DecidableEq, Repr

/-- The operations, in the order of spec/opcode_table.json (R91). -/
inductive Instr where
  | normalize (px : List Byte) (channels : Nat)
  | luminance (r g b : Nat)
  | resample (image : DecodedImage) (maxWidth : Nat)
  | dither (raster : Source GrayscaleRaster)
  | pack (raster : Source MonoRaster)
  | unpack (p : PackedBitmap)
  | reset
  | setAlignment (a : Nat)
  | setTextStyle (bold underline doubleWidth doubleHeight : Bool)
  | feedLines (n : Nat)
  | feedDots (n : Nat)
  | bitmapBlock (mode : BitmapMode) (operands : BitmapOperands)
  | writeText (s : List Byte)
  | rasterize
  | emit (f : List Byte)
  deriving DecidableEq, Repr

/-- The operations a job is made of (R210), with their operands typed. -/
inductive JobOp where
  | rasterize
  | reset
  | setAlignment (a : Alignment)
  | setTextStyle (bold underline doubleWidth doubleHeight : Bool)
  | feedLines (n : Byte)
  | feedDots (n : Byte)
  | bitmapBlock (mode : BitmapMode)
  | writeText (s : List Byte)
  deriving DecidableEq, Repr

end Sys2Proof
end

