-- ==== Sys2Proof/Machine/Operands.lean ====
section
/-! DEFINITION. Operand forms: the wire ordinals of the enums (R183, R189), the type checks of R94, the shape checks of the
records (R34, R130, R150, R170, R173, R190), and the typing of a job operation (R210). -/

namespace Sys2Proof

/-- The wire ordinal of an alignment (R82, R183). -/
def Alignment.ordinal : Alignment → Byte
  | .left => 0x00#8
  | .center => 0x01#8
  | .right => 0x02#8

/-- The alignment with the given ordinal; any other number is no alignment (R94, R183). -/
def Alignment.ofOrdinal? (n : Nat) : Option Alignment :=
  if n = 0 then some .left else if n = 1 then some .center else if n = 2 then some .right else none

/-- A natural number as a byte, when it is one (R94: "uint8"). -/
def byteOperand? (n : Nat) : Option Byte :=
  if n < 256 then some (BitVec.ofNat 8 n) else none

/-- The wire ordinal of a bitmap mode: NORMAL is 0x00, a further mode has the byte `BITMAP_MODE_EXTRA` names for it (R189). -/
def BitmapMode.ordinal? (modes : ModeMap) : BitmapMode → Option Byte
  | .normal => some 0x00#8
  | .extra name => modes.lookup name

/-- The mode a wire byte stands for (R85, R89): 0x00 is NORMAL, any other byte needs an entry of `BITMAP_MODE_EXTRA`. Of
several entries with one byte the first is taken: DESIGN CHOICE (log entry 19). -/
def BitmapMode.ofByte? (modes : ModeMap) (b : Byte) : Option BitmapMode :=
  if b = 0x00#8 then some .normal
  else (modes.find? (fun e => e.2 == b)).map (fun e => .extra e.1)

/-- NORMALIZE's check (R110): one to four channels, and as many bytes. -/
def pixelShapeOk (px : List Byte) (channels : Nat) : Bool :=
  decide (1 ≤ channels) && decide (channels ≤ 4) && decide (px.length = channels)

/-- The input boundary of RESAMPLE (R34, R130). -/
def DecodedImage.shapeOk (i : DecodedImage) : Bool :=
  decide (0 < i.width) && decide (0 < i.height) && decide (1 ≤ i.channels) && decide (i.channels ≤ 4)
    && decide (i.pixels.length = i.width * i.height * i.channels)

/-- DITHER's preconditions (R150). -/
def GrayscaleRaster.ok (g : GrayscaleRaster) : Bool :=
  decide (g.samples.length = g.width * g.height) && g.samples.all F64.isIntensity

/-- PACK's preconditions (R170). -/
def MonoRaster.ok (m : MonoRaster) : Bool :=
  decide (m.bits.length = m.width * m.height) && m.bits.all (fun b => decide (b ≤ 1))

/-- UNPACK's precondition (R173), and the invariant of a PackedBitmap (R29). -/
def PackedBitmap.ok (p : PackedBitmap) : Bool :=
  decide (p.width % 8 = 0) && decide (p.bytes.length = p.width / 8 * p.height)

/-- The agreement of BITMAP_BLOCK's operands (R190, check 2). -/
def PackedBitmap.agrees (p : PackedBitmap) (width height : Nat) : Bool :=
  decide (width = p.width) && decide (height = p.height) && p.ok

/-- The range of the two 16-bit header fields (R190, check 3). -/
def headerInRange (width height : Nat) : Bool :=
  decide (width / 8 ≤ 65535) && decide (height ≤ 65535)

/-- The operation a job operation is (R211); BITMAP_BLOCK takes its operands from P (R92). -/
def JobOp.toInstr : JobOp → Instr
  | .rasterize => .rasterize
  | .reset => .reset
  | .setAlignment a => .setAlignment a.ordinal.toNat
  | .setTextStyle b u dw dh => .setTextStyle b u dw dh
  | .feedLines n => .feedLines n.toNat
  | .feedDots n => .feedDots n.toNat
  | .bitmapBlock m => .bitmapBlock m .fromP
  | .writeText s => .writeText s

/-- The typed job operation an operation spells (R94, R210), when it spells one: its operands lie in their types, its mode is
NORMAL or named by `BITMAP_MODE_EXTRA`, and it is one of the eight operations of R210. -/
def JobOp.ofInstr? (modes : ModeMap) : Instr → Option JobOp
  | .normalize _ _ => none
  | .luminance _ _ _ => none
  | .resample _ _ => none
  | .dither _ => none
  | .pack _ => none
  | .unpack _ => none
  | .reset => some .reset
  | .setAlignment a => (Alignment.ofOrdinal? a).map JobOp.setAlignment
  | .setTextStyle b u dw dh => some (.setTextStyle b u dw dh)
  | .feedLines n => (byteOperand? n).map JobOp.feedLines
  | .feedDots n => (byteOperand? n).map JobOp.feedDots
  | .bitmapBlock m .fromP => (m.ordinal? modes).map (fun _ => JobOp.bitmapBlock m)
  | .bitmapBlock _ (.given _ _ _) => none
  | .writeText s => some (.writeText s)
  | .rasterize => some .rasterize
  | .emit _ => none

/-- The typed job a list of operations spells, when each of them spells a job operation (R210). -/
def jobOfInstrs? (modes : ModeMap) : List Instr → Option (List JobOp)
  | [] => some []
  | i :: rest =>
    match JobOp.ofInstr? modes i, jobOfInstrs? modes rest with
    | some op, some ops => some (op :: ops)
    | _, _ => none

end Sys2Proof
end

