-- ==== Sys2Proof/WellFormed.lean ====
section
/-! DEFINITION. Well-formed operations: every operand lies in its type and every record has its shape (R94, R110, R130, R150,
R170, R173, R190), whatever the state. The operands an operation takes from the CORE's buffers are checked when it runs. -/

namespace Sys2Proof

/-- Well-formedness of BITMAP_BLOCK's operands beside the mode (R190, checks 2 and 3). -/
def BitmapOperands.wf : BitmapOperands → Bool
  | .fromP => true
  | .given width height packed => packed.agrees width height && headerInRange width height

/-- Well-formedness of an operation, under the modes `BITMAP_MODE_EXTRA` names. -/
def Instr.wf (modes : ModeMap) : Instr → Bool
  | .normalize px channels => pixelShapeOk px channels
  | .luminance r g b => decide (r < 256) && decide (g < 256) && decide (b < 256)
  | .resample image _ => image.shapeOk
  | .dither (.given raster) => raster.ok
  | .dither .buffer => true
  | .pack (.given raster) => raster.ok
  | .pack .buffer => true
  | .unpack p => p.ok
  | .reset => true
  | .setAlignment a => (Alignment.ofOrdinal? a).isSome
  | .setTextStyle _ _ _ _ => true
  | .feedLines n => decide (n < 256)
  | .feedDots n => decide (n < 256)
  | .bitmapBlock mode operands => (mode.ordinal? modes).isSome && operands.wf
  | .writeText _ => true
  | .rasterize => true
  | .emit _ => true

end Sys2Proof
end

