-- ==== Sys2Proof/Decode.lean ====
section
/-! DEFINITION. The wire frames (30_encoding.md): a decoder of the CORE's byte stream, total on any bytes and refusing by name
(R80-R90), then the encoder written from the same tables. The CORE itself never decodes (R89): the decoder is that of a reader
of its stream (R87). -/

namespace Sys2Proof

/-- Why the decoder gives no operation. -/
inductive DecodeRefusal where
  /-- no byte is left -/
  | empty
  /-- the bytes end inside a frame (R80, R86) -/
  | truncated
  /-- SET_ALIGNMENT with byte 2 in 0x03..0xff (R82, R89) -/
  | reservedAlignment
  /-- SET_TEXT_STYLE with bit 0, 1, 2 or 6 of byte 2 set (R83, R89) -/
  | reservedStyle
  /-- BITMAP_BLOCK with a mode byte that is neither NORMAL nor in `BITMAP_MODE_EXTRA` (R85, R89) -/
  | reservedMode
  deriving DecidableEq, Repr

/-- SET_ALIGNMENT from its byte 2 (R82). -/
def decodeAlignment (n : Byte) : Except DecodeRefusal Instr :=
  if n.toNat ≤ 2 then .ok (.setAlignment n.toNat) else .error .reservedAlignment

/-- SET_TEXT_STYLE from its byte 2 (R83): bits 0, 1, 2 and 6 are always 0. -/
def decodeStyle (f : Byte) : Except DecodeRefusal Instr :=
  if f &&& 0x47#8 = 0#8 then
    .ok (.setTextStyle (f.getLsbD 3) (f.getLsbD 7) (f.getLsbD 5) (f.getLsbD 4))
  else .error .reservedStyle

/-- The rest of a three-byte frame (FX3, R81), its byte 2 read by `field`. -/
def decodeFX3 (field : Byte → Except DecodeRefusal Instr) : List Byte → Except DecodeRefusal (Instr × List Byte)
  | [] => .error .truncated
  | n :: rest =>
    match field n with
    | .ok i => .ok (i, rest)
    | .error e => .error e

/-- The rest of a bitmap frame after its three opcode bytes (FBM, R81, R85, R86). -/
def decodeBitmap (modes : ModeMap) : List Byte → Except DecodeRefusal (Instr × List Byte)
  | m :: xL :: xH :: yL :: yH :: rest =>
    let cb := read16 xL xH
    let height := read16 yL yH
    match BitmapMode.ofByte? modes m with
    | none => .error .reservedMode
    | some mode =>
      if rest.length < cb * height then .error .truncated
      else
        .ok (.bitmapBlock mode (.given (8 * cb) height ⟨8 * cb, height, rest.take (cb * height)⟩),
          rest.drop (cb * height))
  | _ => .error .truncated

/-- The next operation of a stream and the bytes after it (R87, R88): the length follows from the first bytes, and a byte
that starts no command is a text byte, "length 1 as a unit". -/
def decode (modes : ModeMap) : List Byte → Except DecodeRefusal (Instr × List Byte)
  | [] => .error .empty
  | b0 :: rest =>
    if b0 = 0x1b#8 then
      match rest with
      | [] => .ok (.writeText [b0], [])
      | b1 :: rest1 =>
        if b1 = 0x40#8 then .ok (.reset, rest1)
        else if b1 = 0x61#8 then decodeFX3 decodeAlignment rest1
        else if b1 = 0x21#8 then decodeFX3 decodeStyle rest1
        else if b1 = 0x64#8 then decodeFX3 (fun n => .ok (.feedLines n.toNat)) rest1
        else if b1 = 0x4a#8 then decodeFX3 (fun n => .ok (.feedDots n.toNat)) rest1
        else .ok (.writeText [b0], rest)
    else if b0 = 0x1d#8 then
      match rest with
      | b1 :: b2 :: rest2 =>
        if b1 = 0x76#8 ∧ b2 = 0x30#8 then decodeBitmap modes rest2 else .ok (.writeText [b0], rest)
      | _ => .ok (.writeText [b0], rest)
    else .ok (.writeText [b0], rest)

/-- The operations of a whole stream (R58, R87), reading at most `fuel` of them; a stream of `n` bytes holds at most `n`. -/
def decodeStream (modes : ModeMap) : Nat → List Byte → Except DecodeRefusal (List Instr)
  | _, [] => .ok []
  | 0, _ :: _ => .error .truncated
  | fuel + 1, b :: bs =>
    match decode modes (b :: bs) with
    | .error e => .error e
    | .ok (i, rest) =>
      match decodeStream modes fuel rest with
      | .error e => .error e
      | .ok is => .ok (i :: is)

/-- The bytes of a table word: `nbits / 8` bytes, the table's most significant byte being the frame's byte 0 (so RESET,
`match` 1b40, is the bytes 1b 40; log entry 8). -/
def tableBytes (nbits w : Nat) : List Byte :=
  (List.range (nbits / 8)).map (fun i => BitVec.ofNat 8 (w / 2 ^ (8 * (nbits / 8 - 1 - i)) % 256))

/-- The longest frame whose length its opcode fixes: the bitmap header (R80). -/
def longestFixed : Nat := 8

/-- A table word as a stream: its bytes, and zero bytes above them up to the longest fixed frame (what the table gives no bits
is 0). -/
def tableStream (nbits w : Nat) : List Byte :=
  tableBytes nbits w ++ List.replicate (longestFixed - nbits / 8) 0x00#8

/-- The operation the decoder reads from a table word, under the default (empty) `BITMAP_MODE_EXTRA`. -/
def decodeTableWord (nbits w : Nat) : Option Instr :=
  match decode [] (tableStream nbits w) with
  | .ok (i, _) => some i
  | .error _ => none

/-- The words of a well-formed operation that has a binary form (R80-R85, spec/opcode_table.json): the table's pattern with
the operands in place. An operation with no binary form (R91), an operand outside its type, and a BITMAP_BLOCK whose payload is
still in P have none. -/
def encode (modes : ModeMap) : Instr → Option (List Byte)
  | .normalize _ _ => none
  | .luminance _ _ _ => none
  | .resample _ _ => none
  | .dither _ => none
  | .pack _ => none
  | .unpack _ => none
  | .reset => some [0x1b#8, 0x40#8]
  | .setAlignment a => (Alignment.ofOrdinal? a).map (fun al => [0x1b#8, 0x61#8, al.ordinal])
  | .setTextStyle b u dw dh => some [0x1b#8, 0x21#8, styleFlags b u dw dh]
  | .feedLines n => (byteOperand? n).map (fun v => [0x1b#8, 0x64#8, v])
  | .feedDots n => (byteOperand? n).map (fun v => [0x1b#8, 0x4a#8, v])
  | .bitmapBlock _ .fromP => none
  | .bitmapBlock mode (.given width height packed) =>
    if packed.agrees width height && headerInRange width height then
      (mode.ordinal? modes).map
        (fun m => [0x1d#8, 0x76#8, 0x30#8, m] ++ le16 (width / 8) ++ le16 height ++ packed.bytes)
    else none
  | .writeText s => some s
  | .rasterize => none
  | .emit _ => none

end Sys2Proof
end

