-- ==== Sys2Proof/Machine/State.lean ====
section
/-! DEFINITION. The state of one CORE instance (R22), its ports (R34-R37), the reasons a step can stop, and block reset's
state (R40). The fields below the line `-- ports` are the host's staged inputs (R36) and the model's own environment; a log
entry names each. -/

namespace Sys2Proof.Machine

/-- The sequencer state: exactly four values (R23). -/
inductive Phase where
  | idle | run | done | fault
  deriving DecidableEq, Repr

/-- The configuration the host writes (R25): any `max_width`, including 0. -/
structure Cfg where
  maxWidth : Nat
  deriving DecidableEq, Repr

/-- The decode result on port IMG_IN (R34). -/
inductive DecodeResult where
  | ok (image : DecodedImage)
  | decodeError (reason : String)
  deriving DecidableEq, Repr

/-- The error register (R31): one constructor per code, with the information that code records. -/
inductive ErrRec where
  /-- code 0, NONE -/
  | none
  /-- code 1, DecodeError -/
  | decodeError (reason : String)
  /-- code 2, InvalidDimension: the MonoRaster width that was not a multiple of 8 -/
  | invalidDimension (width : Nat)
  /-- code 3, TransportError: the reason, the frame's `jpc`, and the count returned when the failure is a short write -/
  | transportError (reason : String) (jpc : Nat) (accepted : Option Nat)
  deriving DecidableEq, Repr

/-- What a transaction returns to its caller when its result is no buffer of the CORE (R91), and what a read of port STATUS
gives (R37). The model's own record of a port value (log entry 5). -/
inductive Answer where
  /-- NORMALIZE's triple (R110) -/
  | rgb (r g b : Byte)
  /-- LUMINANCE's intensity (R111) -/
  | intensity (v : F64)
  /-- UNPACK's raster (R173) -/
  | mono (m : MonoRaster)
  /-- an encoder operation's frame (R180) -/
  | frame (f : List Byte)
  /-- `(phase, err, jpc)` (R37) -/
  | status (phase : Phase) (err : ErrRec) (jpc : Nat)
  deriving DecidableEq, Repr

/-- What the outside does at the CORE's ports, one move a step (R36; log entries 4, 5 and 16). -/
inductive HostMove where
  /-- no move: the CORE takes its own step -/
  | tick
  /-- block reset, at any time (R260) -/
  | blockReset
  /-- write CFG -/
  | writeCfg (c : Cfg)
  /-- write JOB: the operations of the job notation (R92) -/
  | writeJob (ops : List Instr)
  /-- write IMG_IN -/
  | writeImg (r : DecodeResult)
  /-- START -/
  | start
  /-- read STATUS (R37) -/
  | readStatus
  /-- apply one operation directly, as a transaction at the CORE's ports (R91; log entry 5) -/
  | transact (i : Instr)
  /-- the transport does not answer yet: the call of the operation at `jpc` is made and stays outstanding (R35, R248;
  log entry 16) -/
  | callPending
  deriving DecidableEq, Repr

/-- The reasons a step ends in `fault`. (The three faults of the SOURCE, R231, are no such stop: taking one is a next state in
phase FAULT, R232.) -/
inductive Fault where
  /-- Raised by `step` in phase RUN when `jpc` lies past the end of the job. The spec says no run reaches it: every index lies
  inside its buffer (R50), and a run ends at `jpc = len(job)` (R24, R211). Safe: the model stops. -/
  | jobIndexOutsideJob
  deriving DecidableEq, Repr

/-- The reasons a step ends in `refused`: the spec's refusals (R240), "the model gives the operation no meaning". Each is safe:
the model stops and no claim holds of the run past it (R240, decision D10). -/
inductive Refusal where
  /-- Raised by `exec` for an operation without a meaning yet. Safe. -/
  | notModelled (mnemonic : String)
  /-- REF_IMAGE_SHAPE, raised by RESAMPLE (so by RASTERIZE) and NORMALIZE. Safe. -/
  | imageShape
  /-- REF_RASTER, raised by DITHER, PACK and UNPACK. Safe. -/
  | raster
  /-- REF_OPERAND, raised by every operation with a typed operand, and by the write of a job (R94). Safe. -/
  | operand
  /-- REF_BITMAP_MISMATCH, raised by BITMAP_BLOCK (R190). Safe. -/
  | bitmapMismatch
  /-- REF_HEADER_RANGE, raised by BITMAP_BLOCK (R190). Safe. -/
  | headerRange
  /-- REF_UNWRITTEN, raised by RASTERIZE, BITMAP_BLOCK, DITHER and PACK on a buffer that holds no value (R39). Safe. -/
  | unwritten
  /-- REF_NOT_READY, raised by START in RUN or FAULT or with no cfg written (R36), and by RASTERIZE when no cfg is latched,
  which no started job meets (R238). Safe. -/
  | notReady
  /-- REF_TX_PROTOCOL, raised by EMIT when the transport claims more bytes than it was given (R214). Safe. -/
  | txProtocol
  /-- Raised by `step` for a host move the spec does not give the host in this phase (R36, I6: "amounts to refuse"). Safe. -/
  | hostMoveNotAdmitted
  deriving DecidableEq, Repr

/-- How an operation ends without a result (R11, R12): it raises one of the source's errors, or is refused. -/
inductive Stop where
  | raise (e : ErrRec)
  | refuse (r : Refusal)
  deriving DecidableEq, Repr

/-- The state of one CORE instance. -/
structure State where
  /-- sequencer state (R23) -/
  phase : Phase
  /-- job counter (R24) -/
  jpc   : Nat
  /-- latched configuration; no value until the host has written one and START has latched it (R25, R40) -/
  cfg   : Option Cfg
  /-- latched job (R210) -/
  job   : List JobOp
  /-- latched decode result (R34) -/
  img   : Option DecodeResult
  /-- GrayscaleRaster buffer (R27) -/
  G     : Option GrayscaleRaster
  /-- MonoRaster buffer (R28) -/
  M     : Option MonoRaster
  /-- PackedBitmap buffer (R29) -/
  P     : Option PackedBitmap
  /-- error register (R31) -/
  err   : ErrRec
  /-- frames the transport accepted, in issue order (R32) -/
  txlog : List (List Byte)
  -- ports
  /-- port CFG: the staged configuration (R36) -/
  cfgIn : Option Cfg
  /-- port JOB: the staged job (R36) -/
  jobIn : List JobOp
  /-- port IMG_IN: the staged decode result (R34, R36) -/
  imgIn : Option DecodeResult
  /-- the value the last direct transaction or STATUS read returned (log entry 5) -/
  answer : Option Answer
  /-- the parameters of this CORE (R7); nothing writes them -/
  params : Params
  /-- the moves the outside makes next, oldest first; none left: the CORE steps on its own (log entry 4) -/
  moves : List HostMove
  /-- the answers the transport has already fixed for the next calls, oldest first (log entry 3) -/
  txAnswers : List TxResult
  /-- how many transport calls have been made: what a free answer is drawn with (log entry 3) -/
  txCalls : Nat
  /-- the frame of the transport call that is outstanding: made by the operation at `jpc`, not answered yet (R35, R248, R260;
  log entry 16) -/
  txPending : Option (List Byte)
  deriving DecidableEq, Repr

/-- The state after block reset (R40). The parameters have the spec's reference and default values (R7); the model's own
fields are empty. -/
def State.reset : State :=
  { phase := .idle, jpc := 0, cfg := none, job := [], img := none
    G := none, M := none, P := none, err := .none, txlog := []
    cfgIn := none, jobIn := [], imgIn := none, answer := none
    params := Params.reference, moves := [], txAnswers := [], txCalls := 0, txPending := none }

end Sys2Proof.Machine
end

