-- ==== Sys2Proof/Machine/Ops.lean ====
section
/-! DEFINITION. The named operations over the state: the memory reads (R11, R53), fault entry (R232) and its only exit, block
reset (R239, R260), how an operation's ending is committed (R12), the transport call and its reading (R213-R215), and the
host's moves (R36). -/

namespace Sys2Proof.Machine

/-- The code of an error record (R31, R231). -/
def ErrRec.code : ErrRec → Nat
  | .none => 0
  | .decodeError _ => 1
  | .invalidDimension _ => 2
  | .transportError _ _ _ => 3

/-- Port STATUS (R37). -/
def State.status (s : State) : Phase × ErrRec × Nat := (s.phase, s.err, s.jpc)

/-- The wire byte stream of the job: the concatenation of the transmission log (R32, R58). -/
def State.wire (s : State) : List Byte := s.txlog.flatten

/-! ### Memory -/

/-- `pixoff(x, y, k) = (y · width + x) · channels + k` (R52). -/
def pixoff (width channels x y k : Nat) : Nat := (y * width + x) * channels + k

/-- `MemRead(addr, n)`: the `n` bytes of the pixel buffer from offset `addr` (R11, R53). Past the buffer's end fewer come
back; no rule computes such an offset (R50). -/
def memRead (pixels : List Byte) (addr n : Nat) : List Byte := (pixels.drop addr).take n

/-- The canonical form of the three raster buffers, as their records are defined: as many samples, bits and bytes as the
dimensions say, bits 0 or 1, rows of whole bytes (R27, R28, R29). -/
def Memory.wf (s : State) : Bool :=
  (match s.G with
    | none => true
    | some g => decide (g.samples.length = g.width * g.height)) &&
  (match s.M with
    | none => true
    | some m => m.ok) &&
  (match s.P with
    | none => true
    | some p => p.ok)

/-! ### Faults -/

/-- Fault entry (R232): `err` records the fault, the phase becomes FAULT, and nothing else changes. -/
def State.raise (s : State) (e : ErrRec) : State := { s with err := e, phase := .fault }

/-- A transport call is over: one answer is used up, and no call is outstanding. Nothing of the CORE changes by it. -/
def State.sent (s : State) : State :=
  { s with txAnswers := s.txAnswers.tail, txCalls := s.txCalls + 1, txPending := none }

/-- The end of a transport call that nobody waits for any more: its answer is used up unread (R260). -/
def State.abandonCall (s : State) : State :=
  match s.txPending with
  | some _ => s.sent
  | none => s

/-- Block reset (R260): every element of the CORE takes its value of R40, at any time; "an outstanding transport call is
abandoned and its answer ignored"; it is the only way out of FAULT (R239). What lies outside the CORE stays: its parameters, the
moves still to come, and the transport (log entry 15). -/
def State.blockReset (s : State) : State :=
  { State.reset with params := s.params, moves := s.moves
                     txAnswers := s.abandonCall.txAnswers, txCalls := s.abandonCall.txCalls }

/-- How an operation's ending is committed (R11, R12): its results are written by `k`; a raised fault is taken and writes none
of them; a refusal gives the run no meaning. -/
def State.settle {α : Type} (s : State) (x : Except Stop α) (k : α → State) :
    Host.Outcome State Fault Refusal :=
  match x with
  | .ok a => .next (k a)
  | .error (.raise e) => .next (s.raise e)
  | .error (.refuse r) => .refused r

/-! ### The transport -/

/-- The answer to the next call `send(f)` (R35): the one the environment has fixed, or else a draw of the oracle. -/
def State.txAnswer (s : State) (f : List Byte) : TxResult :=
  match s.txAnswers with
  | r :: _ => r
  | [] => Config.transport s.txCalls f

/-- The reading of the transport's answer to `send(f)` (R214). A TransportError records "`jpc` of the frame" (R231); the frame of a
direct EMIT outside a job has no place in a job, and there the register `jpc` as it stands is recorded: DESIGN CHOICE (log
entry 5). -/
def State.interpret (s : State) (f : List Byte) : TxResult → Host.Outcome State Fault Refusal
  | .accepted n =>
    if n = f.length then .next { s with txlog := s.txlog ++ [f] }
    else if n < f.length then .next (s.raise (.transportError "short write" s.jpc (some n)))
    else .refused .txProtocol
  | .transportError reason => .next (s.raise (.transportError reason s.jpc none))

/-- EMIT (R213): one call per frame; an empty frame is not sent (R215). Applied outside a job it logs its frame like any other,
although `txlog` is named for the current job's frames: DESIGN CHOICE (R32; log entry 5). -/
def State.emit (s : State) (f : List Byte) : Host.Outcome State Fault Refusal :=
  if f = [] then .next s else s.sent.interpret f (s.txAnswer f)

/-- What becomes of an encoder operation's frame: in a running job it is emitted (R211); outside one it is returned to the
caller, as "none of them emits anything" (R180, 45_command_encoder.md). -/
def State.deliver (s : State) (x : Except Stop (List Byte)) : Host.Outcome State Fault Refusal :=
  match x with
  | .ok f => if s.phase = .run then s.emit f else .next { s with answer := some (.frame f) }
  | .error (.raise e) => .next (s.raise e)
  | .error (.refuse r) => .refused r

/-! ### The host's moves -/

/-- START (R36): refused unless IDLE or DONE with a configuration written; it latches the inputs and starts the job. -/
def State.start (s : State) : Host.Outcome State Fault Refusal :=
  if (s.phase = .idle ∨ s.phase = .done) ∧ s.cfgIn.isSome then
    .next { s with cfg := s.cfgIn, job := s.jobIn, img := s.imgIn, jpc := 0, err := .none, txlog := [],
                   G := none, M := none, P := none, phase := .run }
  else .refused .notReady

/-- A move the host has only while no job runs and no fault stands (R36). -/
def State.whenOpen (s : State) (o : Host.Outcome State Fault Refusal) : Host.Outcome State Fault Refusal :=
  if s.phase = .idle ∨ s.phase = .done then o else .refused .hostMoveNotAdmitted

/-- The write of port JOB (R36): operands outside their types, and operations that are no job operations, spell no job (R94). -/
def State.writeJob (s : State) (ops : List Instr) : Host.Outcome State Fault Refusal :=
  match jobOfInstrs? s.params.bitmapModeExtra ops with
  | some job => .next { s with jobIn := job }
  | none => .refused .operand

end Sys2Proof.Machine
end

