-- ==== Sys2Proof/Machine/BitPacker.lean ====
section
/-! DEFINITION. BitPacker (44_bitpacker.md): PACK (R170-R172) and the test-only UNPACK (R173). -/

namespace Sys2Proof.Machine

/-- The byte of eight pixels from index `base` on: pixel `k` at bit `7 - k` (R170, R171). -/
def packByte (bits : List Nat) (base : Nat) : Byte :=
  (List.range 8).foldl (fun v k => v ||| (BitVec.ofNat 8 (bits.getD (base + k) 0) <<< (7 - k))) 0#8

/-- PACK (R170): the shape first, then the width (R238), then byte `j` of row `y` at offset `y·bpr + j` (R55). -/
def pack (raster : MonoRaster) : Except Stop PackedBitmap :=
  if raster.ok then
    if raster.width % 8 ≠ 0 then .error (.raise (.invalidDimension raster.width))
    else
      let bpr := raster.width / 8
      .ok ⟨raster.width, raster.height,
        (List.range (bpr * raster.height)).map
          (fun o => packByte raster.bits (o / bpr * raster.width + 8 * (o % bpr)))⟩
  else .error (.refuse .raster)

/-- Pixel `k` of a packed byte: bit `7 - k` (R173). -/
def unpackBit (bytes : List Byte) (offset k : Nat) : Nat :=
  if (bytes.getD offset 0#8).getLsbD (7 - k) then 1 else 0

/-- UNPACK (R173): pixel `(x, y)` is bit `7 - x mod 8` of the byte at offset `y·bpr + x div 8`. -/
def unpack (p : PackedBitmap) : Except Stop MonoRaster :=
  if p.ok then
    .ok ⟨p.width, p.height,
      (List.range (p.width * p.height)).map
        (fun i => unpackBit p.bytes (i / p.width * (p.width / 8) + i % p.width / 8) (i % p.width % 8))⟩
  else .error (.refuse .raster)

/-- PACK's operand: the transaction's raster, or the buffer M, which must hold one (R39). -/
def monoOperand (s : State) : Source MonoRaster → Except Stop MonoRaster
  | .given m => .ok m
  | .buffer =>
    match s.M with
    | some m => .ok m
    | none => .error (.refuse .unwritten)

/-- PACK as a transaction (R170); it writes P, and raises InvalidDimension (R172). -/
def execPack (raster : Source MonoRaster) (s : State) : Host.Outcome State Fault Refusal :=
  s.settle ((monoOperand s raster).bind pack) (fun p => { s with P := some p })

/-- UNPACK as a transaction (R173): test-only, it writes no buffer of the CORE (R50). -/
def execUnpack (p : PackedBitmap) (s : State) : Host.Outcome State Fault Refusal :=
  s.settle (unpack p) (fun m => { s with answer := some (.mono m) })

end Sys2Proof.Machine
end

