-- ==== Sys2Proof/Machine/CommandEncoder.lean ====
section
/-! DEFINITION. CommandEncoder (45_command_encoder.md): the seven frames, pure functions of their operands (R180), and the
seven operations, which hand the frame to EMIT in a running job and return it otherwise (R211, `State.deliver`). -/

namespace Sys2Proof.Machine

/-- RESET's frame (R181). -/
def resetFrame : List Byte := [0x1b#8, 0x40#8]

/-- SET_ALIGNMENT's frame (R182); any operand but the three ordinals is refused (R94). -/
def alignmentFrame (a : Nat) : Except Stop (List Byte) :=
  match Alignment.ofOrdinal? a with
  | some al => .ok [0x1b#8, 0x61#8, al.ordinal]
  | none => .error (.refuse .operand)

/-- SET_TEXT_STYLE's frame (R185): empty for the all-default style. -/
def styleFrame (bold underline doubleWidth doubleHeight : Bool) : List Byte :=
  let f := styleFlags bold underline doubleWidth doubleHeight
  if f = 0x00#8 then [] else [0x1b#8, 0x21#8, f]

/-- A feed frame with opcode byte `op` (R186, R187); a count outside 0..255 is refused (R94). -/
def feedFrame (op : Byte) (n : Nat) : Except Stop (List Byte) :=
  match byteOperand? n with
  | some v => .ok [0x1b#8, op, v]
  | none => .error (.refuse .operand)

/-- BITMAP_BLOCK's frame (R188), after the checks of R190 in their order. -/
def bitmapFrame (modes : ModeMap) (mode : BitmapMode) (width height : Nat) (packed : PackedBitmap) :
    Except Stop (List Byte) :=
  match mode.ordinal? modes with
  | none => .error (.refuse .operand)
  | some m =>
    if !packed.agrees width height then .error (.refuse .bitmapMismatch)
    else if !headerInRange width height then .error (.refuse .headerRange)
    else .ok ([0x1d#8, 0x76#8, 0x30#8, m] ++ le16 (width / 8) ++ le16 height ++ packed.bytes)

/-- The frame of a BITMAP_BLOCK: with the transaction's operands (R188), or those of P, which must hold a bitmap (R92, R211).
That a transaction outside a job may take them from P too is the model's: DESIGN CHOICE (log entry 6). -/
def bitmapOperation (s : State) (mode : BitmapMode) : BitmapOperands → Except Stop (List Byte)
  | .given width height packed => bitmapFrame s.params.bitmapModeExtra mode width height packed
  | .fromP =>
    match s.P with
    | none => .error (.refuse .unwritten)
    | some p => bitmapFrame s.params.bitmapModeExtra mode p.width p.height p

/-- The frame an operation hands to the transport when the sequencer runs it (R211, R213), when it has one. -/
def frameOf (s : State) : Instr → Option (List Byte)
  | .normalize _ _ => none
  | .luminance _ _ _ => none
  | .resample _ _ => none
  | .dither _ => none
  | .pack _ => none
  | .unpack _ => none
  | .reset => some resetFrame
  | .setAlignment a => (alignmentFrame a).toOption
  | .setTextStyle bold underline doubleWidth doubleHeight =>
    some (styleFrame bold underline doubleWidth doubleHeight)
  | .feedLines n => (feedFrame 0x64#8 n).toOption
  | .feedDots n => (feedFrame 0x4a#8 n).toOption
  | .bitmapBlock mode operands => (bitmapOperation s mode operands).toOption
  | .writeText text => some text
  | .rasterize => none
  | .emit f => some f

/-- RESET, the printer command (R181): it resets no state of the CORE (R260). -/
def execReset (s : State) : Host.Outcome State Fault Refusal := s.deliver (.ok resetFrame)

/-- SET_ALIGNMENT (R182). -/
def execSetAlignment (a : Nat) (s : State) : Host.Outcome State Fault Refusal := s.deliver (alignmentFrame a)

/-- SET_TEXT_STYLE (R185). -/
def execSetTextStyle (bold underline doubleWidth doubleHeight : Bool) (s : State) :
    Host.Outcome State Fault Refusal :=
  s.deliver (.ok (styleFrame bold underline doubleWidth doubleHeight))

/-- FEED_LINES (R186). -/
def execFeedLines (n : Nat) (s : State) : Host.Outcome State Fault Refusal := s.deliver (feedFrame 0x64#8 n)

/-- FEED_DOTS (R187). -/
def execFeedDots (n : Nat) (s : State) : Host.Outcome State Fault Refusal := s.deliver (feedFrame 0x4a#8 n)

/-- BITMAP_BLOCK (R188). -/
def execBitmapBlock (mode : BitmapMode) (operands : BitmapOperands) (s : State) :
    Host.Outcome State Fault Refusal :=
  s.deliver (bitmapOperation s mode operands)

/-- WRITE_TEXT (R191): the bytes unchanged. -/
def execWriteText (text : List Byte) (s : State) : Host.Outcome State Fault Refusal := s.deliver (.ok text)

end Sys2Proof.Machine
end

