-- ==== Sys2Proof/Machine/Ditherer.lean ====
section
/-! DEFINITION. Ditherer (43_ditherer.md): DITHER, Floyd-Steinberg error diffusion in binary64, in the scan order and with the
roundings of R151-R157 (decision D8). -/

namespace Sys2Proof.Machine

/-- The ditherer's working copy `W` and the bits produced so far (R33, R150); bit `i` belongs to index `i` of the scan. -/
structure Scan where
  work : List F64
  bits : List Nat
  deriving DecidableEq, Repr

/-- `out = 1.0 if v > 0.5 else 0.0` (R152): a tie goes to 0.0, black. -/
def quantize (v : F64) : F64 := if v.gt F64.half then F64.one else F64.zero

/-- `diffuse(tx, ty, k)` (R157): the share `fl(err × k)` is added in place, rounded once more; a target outside the raster
drops its share (R155). -/
def diffuse (w h : Nat) (err : F64) (tx : Int) (ty : Nat) (k : F64) (work : List F64) : List F64 :=
  if 0 ≤ tx ∧ tx < (w : Int) ∧ ty < h then
    work.set (ty * w + tx.toNat) ((work.getD (ty * w + tx.toNat) F64.zero).add (err.mul k))
  else work

/-- The four shares of pixel `(x, y)` (R154). -/
def diffuseAll (w h : Nat) (err : F64) (x y : Nat) (work : List F64) : List F64 :=
  diffuse w h err ((x : Int) + 1) (y + 1) F64.k1
    (diffuse w h err (x : Int) (y + 1) F64.k5
      (diffuse w h err ((x : Int) - 1) (y + 1) F64.k3
        (diffuse w h err ((x : Int) + 1) y F64.k7 work)))

/-- One pixel of the scan, at index `i = y·w + x` (R152-R156): quantize, diffuse the error, write the bit, black being 1. -/
def ditherPixel (w h : Nat) (sc : Scan) (i : Nat) : Scan :=
  let v := sc.work.getD i F64.zero
  let out := quantize v
  let err := v.sub out
  { work := diffuseAll w h err (i % w) (i / w) sc.work
    bits := sc.bits ++ [if out.eqv F64.zero then 1 else 0] }

/-- The scan after its first `n` pixels, row-major, left to right, top to bottom (R151). -/
def ditherScan (raster : GrayscaleRaster) (n : Nat) : Scan :=
  (List.range n).foldl (ditherPixel raster.width raster.height) { work := raster.samples, bits := [] }

/-- DITHER (R157); the caller's raster is not touched (R150, decision D9). -/
def dither (raster : GrayscaleRaster) : Except Stop MonoRaster :=
  if raster.ok then
    .ok ⟨raster.width, raster.height, (ditherScan raster (raster.width * raster.height)).bits⟩
  else .error (.refuse .raster)

/-- DITHER's operand: the transaction's raster, or the buffer G, which must hold one (R39). -/
def grayOperand (s : State) : Source GrayscaleRaster → Except Stop GrayscaleRaster
  | .given g => .ok g
  | .buffer =>
    match s.G with
    | some g => .ok g
    | none => .error (.refuse .unwritten)

/-- DITHER as a transaction (R157); it writes M and leaves G (R50, R150). -/
def execDither (raster : Source GrayscaleRaster) (s : State) : Host.Outcome State Fault Refusal :=
  s.settle ((grayOperand s raster).bind dither) (fun m => { s with M := some m })

end Sys2Proof.Machine
end

