-- ==== Sys2Proof/Machine/Luminance.lean ====
section
/-! DEFINITION. LuminanceConverter (41_luminance.md): NORMALIZE (R110) and LUMINANCE (R111-R114), with the reference
`LUM_POW` (R113) computed exactly and the laws of R118. -/

namespace Sys2Proof.Machine

/-- NORMALIZE (R110): alpha is unread. -/
def normalize (px : List Byte) (channels : Nat) : Except Stop (Byte × Byte × Byte) :=
  if pixelShapeOk px channels then
    match px with
    | [g] => .ok (g, g, g)
    | [g, _] => .ok (g, g, g)
    | [r, g, b] => .ok (r, g, b)
    | [r, g, b, _] => .ok (r, g, b)
    | _ => .error (.refuse .imageShape)
  else .error (.refuse .imageShape)

/-- `Y1000 = 299·r + 587·g + 114·b` (R112). -/
def y1000 (r g b : Nat) : Nat := 299 * r + 587 * g + 114 * b

/-- One more bit of the root: the largest `r ≤ acc + 2^n - 1` above `acc` with `r^11 · 255000^5 ≤ y^5 · 2^693`, found from bit
`n - 1` down. -/
def rootBits (y : Nat) : Nat → Nat → Nat
  | 0, acc => acc
  | n + 1, acc =>
    if (acc + 2 ^ n) ^ 11 * 255000 ^ 5 ≤ y ^ 5 * 2 ^ 693 then rootBits y n (acc + 2 ^ n) else rootBits y n acc

/-- `floor((y/255000)^(5/11) · 2^63)`, for `y ≤ 255000`: the 11th root of `q^5` (R113), since `693 = 11·63`. -/
def scaledRoot (y : Nat) : Nat := rootBits y 64 0

/-- The reference `LUM_POW(y) = RN64((y/255000)^(5/11))` (R113). A root that is not exact leaves a bit below it set, so that
the one rounding of `roundMag` sees on which side of a tie the value lies; `2^1010 = 2^(1074-64)` puts it in units of
2^-1074. -/
def lumPowRef (y : Nat) : F64 :=
  let r := scaledRoot y
  let sticky := if r ^ 11 * 255000 ^ 5 = y ^ 5 * 2 ^ 693 then 0 else 1
  F64.pack false (F64.roundMag ((2 * r + sticky) * 2 ^ 1010) 0)

/-- Parameter `LUM_POW` of this CORE (R7, R113). -/
def lumPow (p : Params) (y : Nat) : F64 := (p.lumPowTable.lookup y).getD (lumPowRef y)

/-- LUMINANCE (R114), on operands of type uint8 (R94, R111). -/
def luminance (p : Params) (r g b : Nat) : Except Stop F64 :=
  if r < 256 ∧ g < 256 ∧ b < 256 then .ok (lumPow p (y1000 r g b)) else .error (.refuse .operand)

/-- The laws a `LUM_POW` must satisfy (R118): the endpoints (b), monotonicity (c), the range (d), and at most two binary64 steps
from the reference (e). Law (a), a total function of `Y1000` alone, is `lumPow`'s type. -/
structure LumLaws (p : Params) : Prop where
  atZero   : lumPow p 0 = F64.zero
  atWhite  : lumPow p 255000 = F64.one
  monotone : ∀ y z, y ≤ z → z ≤ 255000 → (lumPow p y).le (lumPow p z) = true
  range    : ∀ y, y ≤ 255000 → (lumPow p y).isIntensity = true
  nearRef  : ∀ y, y ≤ 255000 →
    (lumPow p y).toNat ≤ (lumPowRef y).toNat + 2 ∧ (lumPowRef y).toNat ≤ (lumPow p y).toNat + 2

/-- NORMALIZE as a transaction (R110). -/
def execNormalize (px : List Byte) (channels : Nat) (s : State) : Host.Outcome State Fault Refusal :=
  s.settle (normalize px channels) (fun t => { s with answer := some (.rgb t.1 t.2.1 t.2.2) })

/-- LUMINANCE as a transaction (R114). -/
def execLuminance (r g b : Nat) (s : State) : Host.Outcome State Fault Refusal :=
  s.settle (luminance s.params r g b) (fun v => { s with answer := some (.intensity v) })

end Sys2Proof.Machine
end

