-- ==== Sys2Proof/Machine/Resampler.lean ====
section
/-! DEFINITION. Resampler (42_resampler.md): RESAMPLE, in exact rational arithmetic (R131-R135, decision D6). -/

namespace Sys2Proof.Machine

/-- A non-negative rational, as its numerator and denominator. -/
structure Ratio where
  num : Nat
  den : Nat
  deriving DecidableEq, Repr

/-- `floor(n · q)`. -/
def Ratio.floorMul (q : Ratio) (n : Nat) : Nat := n * q.num / q.den

/-- `floor(n / q)`; evaluated only where a destination pixel exists, so never at `q = 0` (R136). -/
def Ratio.floorDiv (q : Ratio) (n : Nat) : Nat := n * q.den / q.num

/-- `scale = min(1, m/w)` (R131). -/
def scale (w m : Nat) : Ratio := if m < w then ⟨m, w⟩ else ⟨1, 1⟩

/-- Destination width (R132): rounded down to a multiple of 8, and 8 where that is 0. -/
def destWidth (w m : Nat) : Nat :=
  let sw0 := (scale w m).floorMul w
  let sw1 := sw0 - sw0 % 8
  if sw1 = 0 then 8 else sw1

/-- Destination height (R133): no clamp, so it may be 0. -/
def destHeight (w h m : Nat) : Nat := (scale w m).floorMul h

/-- Source column of destination column `x` (R134). -/
def srcX (w m x : Nat) : Nat := min ((scale w m).floorDiv x) (w - 1)

/-- Source row of destination row `y` (R135). -/
def srcY (w h m y : Nat) : Nat := min ((scale w m).floorDiv y) (h - 1)

/-- The sample of destination pixel `(x, y)`: the source pixel fetched, normalized and converted (R137, R138). -/
def samplePixel (p : Params) (image : DecodedImage) (m x y : Nat) : Except Stop F64 :=
  let sx := srcX image.width m x
  let sy := srcY image.width image.height m y
  match normalize (memRead image.pixels (pixoff image.width image.channels sx sy 0) image.channels)
      image.channels with
  | .ok (r, g, b) => luminance p r.toNat g.toNat b.toNat
  | .error e => .error e

/-- The results of `f` on each element, in order, or the first ending without one. -/
def collect {α β : Type} (f : α → Except Stop β) : List α → Except Stop (List β)
  | [] => .ok []
  | a :: rest =>
    match f a with
    | .error e => .error e
    | .ok b =>
      match collect f rest with
      | .error e => .error e
      | .ok bs => .ok (b :: bs)

/-- RESAMPLE (R138): the preconditions of R130, then one sample per destination pixel; index `i` is column `i mod sw` of row
`i div sw` (R54). -/
def resample (p : Params) (image : DecodedImage) (m : Nat) : Except Stop GrayscaleRaster :=
  if image.shapeOk then
    let sw := destWidth image.width m
    let sh := destHeight image.width image.height m
    match collect (fun i => samplePixel p image m (i % sw) (i / sw)) (List.range (sw * sh)) with
    | .ok samples => .ok ⟨sw, sh, samples⟩
    | .error e => .error e
  else .error (.refuse .imageShape)

/-- RESAMPLE as a transaction (R138); it writes G (R50). -/
def execResample (image : DecodedImage) (maxWidth : Nat) (s : State) : Host.Outcome State Fault Refusal :=
  s.settle (resample s.params image maxWidth) (fun g => { s with G := some g })

end Sys2Proof.Machine
end

