-- ==== Sys2Proof/Machine/Sequencer.lean ====
section
/-! DEFINITION. The sequencer's own operations (46_sequencer.md): RASTERIZE (R212) and EMIT (R213). -/

namespace Sys2Proof.Machine

/-- The image path of RASTERIZE (R3, R212): RESAMPLE, DITHER, PACK, each stage consuming the one before it. -/
def rasterizeImage (p : Params) (image : DecodedImage) (m : Nat) :
    Except Stop (GrayscaleRaster × MonoRaster × PackedBitmap) :=
  match resample p image m with
  | .error e => .error e
  | .ok g =>
    match dither g with
    | .error e => .error e
    | .ok mono =>
      match pack mono with
      | .error e => .error e
      | .ok bitmap => .ok (g, mono, bitmap)

/-- RASTERIZE's checks in the order of R238, then the image path. -/
def rasterize (s : State) : Except Stop (GrayscaleRaster × MonoRaster × PackedBitmap) :=
  match s.img, s.cfg with
  | none, _ => .error (.refuse .unwritten)
  | some _, none => .error (.refuse .notReady)
  | some (.decodeError reason), some _ => .error (.raise (.decodeError reason))
  | some (.ok image), some cfg => rasterizeImage s.params image cfg.maxWidth

/-- RASTERIZE (R212): G, M and P written together, or none of them. -/
def execRasterize (s : State) : Host.Outcome State Fault Refusal :=
  s.settle (rasterize s) (fun t => { s with G := some t.1, M := some t.2.1, P := some t.2.2 })

/-- EMIT (R213). -/
def execEmit (f : List Byte) (s : State) : Host.Outcome State Fault Refusal := s.emit f

end Sys2Proof.Machine
end

