-- ==== Sys2Proof/Machine/Dispatch.lean ====
section
/-! DEFINITION. One arm per operation of spec/opcode_table.json. -/

namespace Sys2Proof.Machine

def exec (i : Instr) (s : State) : Host.Outcome State Fault Refusal :=
  match i with
  | .normalize px channels => Sys2Proof.Machine.execNormalize px channels s
  | .luminance r g b => Sys2Proof.Machine.execLuminance r g b s
  | .resample image maxWidth => Sys2Proof.Machine.execResample image maxWidth s
  | .dither raster => Sys2Proof.Machine.execDither raster s
  | .pack raster => Sys2Proof.Machine.execPack raster s
  | .unpack p => Sys2Proof.Machine.execUnpack p s
  | .reset => Sys2Proof.Machine.execReset s
  | .setAlignment a => Sys2Proof.Machine.execSetAlignment a s
  | .setTextStyle bold underline doubleWidth doubleHeight => Sys2Proof.Machine.execSetTextStyle bold underline doubleWidth doubleHeight s
  | .feedLines n => Sys2Proof.Machine.execFeedLines n s
  | .feedDots n => Sys2Proof.Machine.execFeedDots n s
  | .bitmapBlock mode operands => Sys2Proof.Machine.execBitmapBlock mode operands s
  | .writeText text => Sys2Proof.Machine.execWriteText text s
  | .rasterize => Sys2Proof.Machine.execRasterize s
  | .emit f => Sys2Proof.Machine.execEmit f s

end Sys2Proof.Machine
end

