-- ==== Sys2Proof/Machine/Run.lean ====
section
/-! DEFINITION. What `step` is made of: the step of a running job (R211), the host's moves (R36), and the placing of a table word
as the next operation of a running job. -/

namespace Sys2Proof.Machine

/-- `jpc <- jpc + 1` "if no fault was raised and nothing was refused" (R211); a fault leaves `jpc` at the faulting
operation (R24, R232). -/
def advance : Host.Outcome State Fault Refusal → Host.Outcome State Fault Refusal
  | .next s => if s.phase = .fault then .next s else .next { s with jpc := s.jpc + 1 }
  | .fault r => .fault r
  | .refused r => .refused r

/-- The CORE's own step: one whole operation of the running job, or its end (R211, R217). In IDLE, DONE and FAULT the CORE
executes nothing (R23, R239, R261). -/
def coreStep (s : State) : Host.Outcome State Fault Refusal :=
  match s.phase with
  | .run =>
    if s.jpc = s.job.length then .next { s with phase := .done }
    else
      match s.job[s.jpc]? with
      | some op => advance (exec op.toInstr s)
      | none => .fault .jobIndexOutsideJob
  | .idle => .next s
  | .done => .next s
  | .fault => .next s

/-- The frame the running job hands to the transport next: that of the operation at `jpc` (R211). -/
def State.nextFrame (s : State) : Option (List Byte) :=
  if s.phase = .run then (s.job[s.jpc]?).bind (fun op => frameOf s op.toInstr) else none

/-- The transport call of the operation at `jpc` is made, and its answer is not there yet: the CORE "is blocked in EMIT", and "no
state is lost while it waits" (R248). Only a frame that is not empty is called for (R215). -/
def State.holdCall (s : State) : Host.Outcome State Fault Refusal :=
  match s.nextFrame with
  | some (b :: f) => .next { s with txPending := some (b :: f) }
  | some [] => .refused .hostMoveNotAdmitted
  | none => .refused .hostMoveNotAdmitted

/-- One move of the outside (R36). A transaction outside a job is the model's choice, the log an EMIT among them writes
included (log entry 5). -/
def hostStep (m : HostMove) (s : State) : Host.Outcome State Fault Refusal :=
  match m with
  | .tick => coreStep s
  | .blockReset => .next s.blockReset
  | .writeCfg c => s.whenOpen (.next { s with cfgIn := some c })
  | .writeJob ops => s.whenOpen (s.writeJob ops)
  | .writeImg r => s.whenOpen (.next { s with imgIn := some r })
  | .start => s.start
  | .readStatus => .next { s with answer := some (.status s.status.1 s.status.2.1 s.status.2.2) }
  | .transact i => s.whenOpen (exec i s)
  | .callPending => s.holdCall

/-- The next move of the outside if one is listed, else the CORE's own step. -/
def stepBody (s : State) : Host.Outcome State Fault Refusal :=
  match s.moves with
  | [] => coreStep s
  | m :: rest => hostStep m { s with moves := rest }

/-- The frame a decoded operation sends when it runs (R185 for the all-default style). -/
def sentFrame : Instr → List Byte
  | .setTextStyle b u dw dh => styleFrame b u dw dh
  | i => (encode [] i).getD []

/-- A running job of one operation, at its beginning, with the transport about to accept its frame (log entry 9). -/
def State.loadOp (s : State) (op : JobOp) (frame : List Byte) : State :=
  { s with phase := .run, jpc := 0, job := [op], moves := [], txPending := none
           txAnswers := if frame = [] then s.txAnswers else .accepted frame.length :: s.txAnswers }

/-- A decoded operation placed as the next operation of a running job; a decoded BITMAP_BLOCK brings its payload in P, where a
job's BITMAP_BLOCK takes it from (R92). -/
def State.loadInstr (s : State) (i : Instr) : State :=
  match i with
  | .bitmapBlock mode (.given _ _ p) => { s with P := some p }.loadOp (.bitmapBlock mode) (sentFrame i)
  | i =>
    match JobOp.ofInstr? [] i with
    | some op => s.loadOp op (sentFrame i)
    | none => s

/-- A table word placed as the next operation of a running job, when it decodes. -/
def State.loadTableWord (s : State) (nbits w : Nat) : State :=
  match decodeTableWord nbits w with
  | some i => s.loadInstr i
  | none => s

end Sys2Proof.Machine
end

