-- ==== Sys2Proof/Machine/Step.lean ====
section
/-! DEFINITION. The step of the machine, and the placing of a table word where the next step runs it. -/

namespace Sys2Proof.Machine

/-- One step: the next move of the outside (R36), or one whole operation of the running job (R211). -/
def step (s : State) : Host.Outcome State Fault Refusal := stepBody s

/-- `s` with the operation of a table word as the next one step runs (log entry 9). -/
def State.withFetchWord (s : State) (nbits w : Nat) : State := s.loadTableWord nbits w

end Sys2Proof.Machine
end

