-- ==== Sys2Proof/Machine/Job.lean ====
section
/-! DEFINITION. The job shapes of 46_sequencer.md: the canonical job (R218) and the two macros (R93, R219, R220). -/

namespace Sys2Proof.Machine

/-- The style operands of a macro: bold, underline, double_width, double_height (R93). -/
structure Style where
  bold         : Bool
  underline    : Bool
  doubleWidth  : Bool
  doubleHeight : Bool
  deriving DecidableEq, Repr

/-- The SET_TEXT_STYLE operation of a style. -/
def Style.op (st : Style) : JobOp := .setTextStyle st.bold st.underline st.doubleWidth st.doubleHeight

/-- The feed operand of a macro: one FEED_LINES or FEED_DOTS (R93). -/
inductive Feed where
  | lines (n : Byte)
  | dots (n : Byte)
  deriving DecidableEq, Repr

/-- The feed operation. -/
def Feed.op : Feed → JobOp
  | .lines n => .feedLines n
  | .dots n => .feedDots n

/-- Macro PRINT_IMAGE (R219). -/
def printImage (a : Alignment) (st : Style) (mode : BitmapMode) (feed : Feed) : List JobOp :=
  [.rasterize, .reset, .setAlignment a, st.op, .bitmapBlock mode, feed.op, .reset]

/-- Macro PRINT_TEXT (R220). -/
def printText (a : Alignment) (st : Style) (text : List Byte) (feed : Feed) : List JobOp :=
  [.reset, .setAlignment a, st.op, .writeText text, feed.op, .reset]

/-- A feed operation (R218). -/
def isFeed : JobOp → Bool
  | .feedLines _ => true
  | .feedDots _ => true
  | _ => false

/-- The canonical job (R218): RASTERIZE is present exactly when the content is BITMAP_BLOCK, and comes first. The CORE runs
other jobs too (R210). -/
def canonicalJob : List JobOp → Bool
  | [.rasterize, .reset, .setAlignment _, .setTextStyle _ _ _ _, .bitmapBlock _, feed, .reset] => isFeed feed
  | [.reset, .setAlignment _, .setTextStyle _ _ _ _, .writeText _, feed, .reset] => isFeed feed
  | _ => false

end Sys2Proof.Machine
end

