-- ==== Sys2Proof/Safety.lean ====
section
/-! DEFINITION. What claims about runs are stated with: the machine's invariant, the endings of a run (R217), and the quiet
state in which only the CORE steps. -/

namespace Sys2Proof.Safety

open Sys2Proof.Machine

/-- What every reachable state has: `err` holds a fault exactly in phase FAULT (R23, R31, R232); the job counter lies inside the
job, at its end once DONE (R24, R217), and at zero of an empty job while IDLE (R40); a running job has its configuration
(R36); the buffers have their canonical form (R27-R29); and an outstanding transport call is that of the operation the job is
at (R213, R248). -/
structure Inv (s : State) : Prop where
  faultIffErr : s.phase = .fault ↔ s.err ≠ .none
  jpcInJob    : s.jpc ≤ s.job.length
  doneAtEnd   : s.phase = .done → s.jpc = s.job.length
  idleEmpty   : s.phase = .idle → s.jpc = 0 ∧ s.job = []
  runHasCfg   : s.phase = .run → s.cfg.isSome = true
  memory      : Memory.wf s = true
  pendingIsNext : ∀ f, s.txPending = some f → f ≠ [] ∧ s.nextFrame = some f

/-- A run's three endings (R217), as an outcome: DONE or FAULT in the state, or refused. -/
def ended : Host.Outcome State Fault Refusal → Prop
  | .next s => s.phase = .done ∨ s.phase = .fault
  | .fault _ => False
  | .refused _ => True

/-- No move of the outside is listed: the CORE steps on its own. -/
def quiet (s : State) : Prop := s.moves = []

/-- The seven operations that produce a frame (R80, R180). -/
def isEncoder : Instr → Bool
  | .reset => true
  | .setAlignment _ => true
  | .setTextStyle _ _ _ _ => true
  | .feedLines _ => true
  | .feedDots _ => true
  | .bitmapBlock _ _ => true
  | .writeText _ => true
  | .normalize _ _ => false
  | .luminance _ _ _ => false
  | .resample _ _ => false
  | .dither _ => false
  | .pack _ => false
  | .unpack _ => false
  | .rasterize => false
  | .emit _ => false

/-- Operation `i` at `s` yields frame `f`: outside a job it returns `f` and changes nothing else (R180; the one meaning for both
uses and the field `answer` are the model's, log entries 5 and 7); in a running job whose transport takes `f` whole it logs `f`
(R213, R214; the answer used up is the environment's, log entries 3 and 16), and an empty `f` is not sent (R215); and whatever the
transport answers, in a running job `i` is EMIT of `f` (R211). -/
def yieldsFrame (i : Instr) (s : State) (f : List Byte) : Prop :=
  (s.phase ≠ .run → exec i s = .next { s with answer := some (.frame f) }) ∧
  (s.phase = .run → f ≠ [] → s.txAnswer f = .accepted f.length →
    exec i s = .next { s with txlog := s.txlog ++ [f]
                              txAnswers := s.txAnswers.tail, txCalls := s.txCalls + 1, txPending := none }) ∧
  (s.phase = .run → f = [] → exec i s = .next s) ∧
  (s.phase = .run → exec i s = exec (.emit f) s)

/-- `BITMAP_MODE_EXTRA` as R189 and the open-parameter table have it, "a finite map from mode name to byte" that excludes
0x00; and, which the spec does not say, no byte is named twice, so that a wire byte names one mode: the model's premise on a
reader's map (DESIGN CHOICE, log entry 19). -/
def modeMapWf (modes : ModeMap) : Prop :=
  (modes.map (fun e => e.1)).Nodup ∧ (modes.map (fun e => e.2)).Nodup ∧ ∀ e ∈ modes, e.2 ≠ 0x00#8

/-- The values a parameter `LUM_POW` replaces the reference by are intensities (law (d) of R118). -/
def tableInRange (p : Params) : Prop := ∀ e ∈ p.lumPowTable, e.2.isIntensity = true

/-- A text byte that can start no command (R87, R90): neither 0x1b nor 0x1d. -/
def plainByte (b : Byte) : Prop := b ≠ 0x1b#8 ∧ b ≠ 0x1d#8

/-- What a reader of the stream makes of an operation: a text is read one byte at a time, "length 1 as a unit" (R87). -/
def asRead : Instr → List Instr
  | .writeText s => s.map (fun b => .writeText [b])
  | i => [i]

/-- The frame a job operation sends, from the encodings of 30_encoding.md: nothing for the all-default style (R185), the
bitmap of P for BITMAP_BLOCK (R92), and none for RASTERIZE. -/
def jobFrame (s : State) : JobOp → Option (List Byte)
  | .rasterize => none
  | .setTextStyle false false false false => some []
  | .bitmapBlock mode =>
    s.P.bind (fun p => encode s.params.bitmapModeExtra (.bitmapBlock mode (.given p.width p.height p)))
  | op => encode s.params.bitmapModeExtra op.toInstr

/-- Byte `i` of a pixel buffer, as a number. -/
def pixelByte (pixels : List Byte) (i : Nat) : Nat := (pixels.getD i 0#8).toNat

/-- `Y1000` of the source pixel at offset `o` of an image of `c` channels: gray for one or two, r, g, b for three or four, alpha
unread (R110, R112). -/
def pixelLuma (pixels : List Byte) (c o : Nat) : Nat :=
  if c ≤ 2 then 1000 * pixelByte pixels o
  else 299 * pixelByte pixels o + 587 * pixelByte pixels (o + 1) + 114 * pixelByte pixels (o + 2)

end Sys2Proof.Safety
end

