-- ==== Sys2Proof/Certificates/Slice0/Obligations.lean ====
section
/-! DEFINITION. The statements for the provers. Each docstring names the rule of spec/ it formalises, or says that it rests on a
choice of the model's and names the log entry. -/

open Sys2Proof Sys2Proof.Machine Sys2Proof.Safety

/-! ### LuminanceConverter -/

/-- 41_luminance.md, NORMALIZE. By channel count, alpha unread; anything but one to four channels with as many bytes is refused.
It has no wire form. (Where the triple is returned, the field `answer`, is the model's choice: log entry 5.) -/
def Obligations.NormalizeByChannelCount : Prop :=
  ∀ s : State,
    (∀ g, exec (.normalize [g] 1) s = .next { s with answer := some (.rgb g g g) }) ∧
    (∀ g alpha, exec (.normalize [g, alpha] 2) s = .next { s with answer := some (.rgb g g g) }) ∧
    (∀ r g b, exec (.normalize [r, g, b] 3) s = .next { s with answer := some (.rgb r g b) }) ∧
    (∀ r g b alpha, exec (.normalize [r, g, b, alpha] 4) s = .next { s with answer := some (.rgb r g b) }) ∧
    (∀ px channels, ¬ (1 ≤ channels ∧ channels ≤ 4 ∧ px.length = channels) →
      exec (.normalize px channels) s = .refused .imageShape) ∧
    (∀ px channels modes, encode modes (.normalize px channels) = none)

/-- R112. The luma is exact, bounded by 255000 on bytes, and strictly increasing in each channel. -/
def Obligations.LumaIsExactAndStrictlyIncreasing : Prop :=
  (∀ r g b, y1000 r g b = 299 * r + 587 * g + 114 * b) ∧
  (∀ r g b, r ≤ 255 → g ≤ 255 → b ≤ 255 → y1000 r g b ≤ 255000) ∧
  (∀ r r' g b, r < r' → y1000 r g b < y1000 r' g b) ∧
  (∀ r g g' b, g < g' → y1000 r g b < y1000 r g' b) ∧
  (∀ r g b b', b < b' → y1000 r g b < y1000 r g b')

/-- 41_luminance.md, LUMINANCE. On bytes it returns `LUM_POW(Y1000)` of this CORE's `LUM_POW` and changes nothing else; an
operand that is no byte is refused. (The field `answer` is the model's: log entry 5.) -/
def Obligations.LuminanceReturnsGammaOfLuma : Prop :=
  ∀ r g b (s : State),
    (r ≤ 255 ∧ g ≤ 255 ∧ b ≤ 255 →
      exec (.luminance r g b) s
        = .next { s with answer := some (.intensity (lumPow s.params (299 * r + 587 * g + 114 * b))) }) ∧
    (¬ (r ≤ 255 ∧ g ≤ 255 ∧ b ≤ 255) → exec (.luminance r g b) s = .refused .operand)

/-- 41_luminance.md, the reference of `LUM_POW`: it is the binary64 value nearest the real number `(Y1000/255000)^(5/11)`. -/
def Obligations.ReferenceLumPowIsNearestToRealPower : Prop :=
  ∀ y : Nat, y ≤ 255000 →
    (lumPowRef y).isFinite = true ∧
    ∀ c : F64, c.isFinite = true →
      |((lumPowRef y).scaled : ℝ) / 2 ^ 1074 - ((y : ℝ) / 255000) ^ ((5 : ℝ) / 11)|
        ≤ |(c.scaled : ℝ) / 2 ^ 1074 - ((y : ℝ) / 255000) ^ ((5 : ℝ) / 11)|

/-- R115. Under the reference `LUM_POW` the luminance is non-decreasing in each channel, lies in [0,1], and has its endpoints. -/
def Obligations.ReferenceLuminanceMonotoneInRange : Prop :=
  (∀ r g b r' g' b', r ≤ r' → g ≤ g' → b ≤ b' → r' ≤ 255 → g' ≤ 255 → b' ≤ 255 →
    (lumPow Params.reference (y1000 r g b)).le (lumPow Params.reference (y1000 r' g' b')) = true) ∧
  (∀ r g b, r ≤ 255 → g ≤ 255 → b ≤ 255 →
    (F64.zero.le (lumPow Params.reference (y1000 r g b)) && (lumPow Params.reference (y1000 r g b)).le F64.one) = true) ∧
  lumPow Params.reference (y1000 0 0 0) = F64.zero ∧ lumPow Params.reference (y1000 255 255 255) = F64.one

/-- 41_luminance.md, laws any `LUM_POW` must satisfy. The reference satisfies the laws any `LUM_POW` must keep:
the endpoints, monotonicity, the range, and the distance from the reference (law (a) is the type of `lumPow`). -/
def Obligations.ReferenceKeepsLumPowLaws : Prop := LumLaws Params.reference

/-- R116. The black and white threshold of the reference: above 0.5 exactly from `Y1000 = 55498` on, the two values beside it,
never exactly 0.5; a gray sample is white exactly from 56 on. -/
def Obligations.ReferenceThresholdIs55498 : Prop :=
  (∀ y, y ≤ 255000 → ((lumPowRef y).gt F64.half = true ↔ 55498 ≤ y)) ∧
  (∀ y, y ≤ 255000 → (lumPowRef y).eqv F64.half = false) ∧
  lumPowRef 55497 = 0x3fdffff5b8aec783#64 ∧ lumPowRef 55498 = 0x3fe0000372ed5dcb#64 ∧
  (∀ v, v ≤ 255 → (quantize (lumPowRef (y1000 v v v)) = F64.one ↔ 56 ≤ v) ∧
    (quantize (lumPowRef (y1000 v v v)) = F64.zero ↔ v ≤ 55))

/-! ### Binary64 -/

/-- 00_scope.md, floating-point notation: `fl(a + b)` and `fl(a - b)` are the finite values nearest the exact results, ties going
to the even significand. -/
def Obligations.SumIsRoundedToNearestEven : Prop :=
  ∀ a b c : F64, a.isFinite = true → b.isFinite = true → c.isFinite = true →
    ((a.add b).isFinite = true →
      |(a.add b).scaled - (a.scaled + b.scaled)| ≤ |c.scaled - (a.scaled + b.scaled)| ∧
      (|(a.add b).scaled - (a.scaled + b.scaled)| = |c.scaled - (a.scaled + b.scaled)| →
        c.scaled ≠ (a.add b).scaled → (a.add b).toNat % 2 = 0)) ∧
    ((a.sub b).isFinite = true →
      |(a.sub b).scaled - (a.scaled - b.scaled)| ≤ |c.scaled - (a.scaled - b.scaled)| ∧
      (|(a.sub b).scaled - (a.scaled - b.scaled)| = |c.scaled - (a.scaled - b.scaled)| →
        c.scaled ≠ (a.sub b).scaled → (a.sub b).toNat % 2 = 0))

/-- 00_scope.md, floating-point notation: `fl(a × b)` is the finite value nearest the exact product, ties going to the even
significand. -/
def Obligations.ProductIsRoundedToNearestEven : Prop :=
  ∀ a b c : F64, a.isFinite = true → b.isFinite = true → c.isFinite = true → (a.mul b).isFinite = true →
    |(a.mul b).scaled * 2 ^ 1074 - a.scaled * b.scaled| ≤ |c.scaled * 2 ^ 1074 - a.scaled * b.scaled| ∧
    (|(a.mul b).scaled * 2 ^ 1074 - a.scaled * b.scaled| = |c.scaled * 2 ^ 1074 - a.scaled * b.scaled| →
      c.scaled ≠ (a.mul b).scaled → (a.mul b).toNat % 2 = 0)

/-! ### Resampler -/

/-- R131, R132, R133. The destination sizes are those of exact rational arithmetic, in closed form, with their degenerate
cases. -/
def Obligations.DestinationSizeIsExactRational : Prop :=
  ∀ w h m : Nat, 0 < w → 0 < h →
    (0 ≤ min (1 : ℚ) ((m : ℚ) / w) ∧ min (1 : ℚ) ((m : ℚ) / w) ≤ 1) ∧
    ⌊(w : ℚ) * min 1 ((m : ℚ) / w)⌋₊ = min w m ∧
    (destWidth w m = if min w m - min w m % 8 = 0 then 8 else min w m - min w m % 8) ∧
    (0 < destWidth w m ∧ destWidth w m % 8 = 0) ∧
    (w < 8 ∨ m < 8 → destWidth w m = 8) ∧
    destHeight w h m = ⌊(h : ℚ) * min 1 ((m : ℚ) / w)⌋₊ ∧
    (w ≤ m → destHeight w h m = h) ∧ (m < w → destHeight w h m = h * m / w) ∧
    (destHeight w h m = 0 ↔ m < w ∧ h * m < w)

/-- R134, R135, R136. The source indices of each destination pixel are those of exact rational arithmetic, in closed form;
the column clamp is reached only where the width 8 exceeds the image or `max_width`; and at `max_width = 0` no pixel exists. -/
def Obligations.SourceIndicesAreExactRational : Prop :=
  (∀ w h m x y : Nat, 0 < w → 0 < h → 0 < m → x < destWidth w m → y < destHeight w h m →
    srcX w m x = min ⌊(x : ℚ) / min 1 ((m : ℚ) / w)⌋₊ (w - 1) ∧
    srcY w h m y = min ⌊(y : ℚ) / min 1 ((m : ℚ) / w)⌋₊ (h - 1) ∧
    (w ≤ m → srcX w m x = min x (w - 1) ∧ srcY w h m y = y) ∧
    (m < w → srcX w m x = min (x * w / m) (w - 1) ∧ srcY w h m y = min (y * w / m) (h - 1)) ∧
    (8 ≤ w → 8 ≤ m → ⌊(x : ℚ) / min 1 ((m : ℚ) / w)⌋₊ ≤ w - 1)) ∧
  (∀ w h : Nat, 0 < w → destHeight w h 0 = 0)

/-- 42_resampler.md, the whole operation. RESAMPLE completes on every image of the contract: the destination sizes, and at each
pixel the luminance of the selected source pixel; any other image is refused and nothing is written. (That a direct RESAMPLE
writes its result to G is deduced: log entry 6.) -/
def Obligations.ResampleSamplesSelectedPixels : Prop :=
  ∀ (image : DecodedImage) (m : Nat) (s : State),
    (image.shapeOk = true →
      ∃ g : GrayscaleRaster,
        exec (.resample image m) s = .next { s with G := some g } ∧
        g.width = destWidth image.width m ∧ g.height = destHeight image.width image.height m ∧
        g.samples.length = g.width * g.height ∧
        ∀ x y, x < g.width → y < g.height →
          g.samples[y * g.width + x]? = some (lumPow s.params (pixelLuma image.pixels image.channels
            ((srcY image.width image.height m y * image.width + srcX image.width m x) * image.channels)))) ∧
    (image.shapeOk = false → exec (.resample image m) s = .refused .imageShape)

/-- 42_resampler.md, properties of the result. Properties of a resampled raster: its width a positive multiple of 8, the largest
not above the image's width or `max_width`, its length, and its samples in [0,1] (for a `LUM_POW` whose values are intensities,
R118 (d)). -/
def Obligations.ResampledRasterProperties : Prop :=
  ∀ (p : Params) (image : DecodedImage) (m : Nat) (g : GrayscaleRaster), resample p image m = .ok g →
    (g.width % 8 = 0 ∧ 8 ≤ g.width) ∧
    (image.width ≤ m → 8 ≤ image.width →
      g.width ≤ image.width ∧ ∀ k, 8 * k ≤ image.width → 8 * k ≤ g.width) ∧
    (m < image.width → 8 ≤ m → g.width ≤ m ∧ ∀ k, 8 * k ≤ m → 8 * k ≤ g.width) ∧
    (image.width < 8 ∨ m < 8 → g.width = 8) ∧
    (tableInRange p → ∀ v ∈ g.samples, (F64.zero.le v && v.le F64.one) = true) ∧
    g.samples.length = g.width * g.height

/-- 42_resampler.md, right-edge truncation. Right-edge truncation: no source column right of the last selected one is read, so
images that agree up to it resample alike; at scale 1 at most seven columns are dropped; a smaller `max_width` of 8 or more that
is no multiple of 8 drops some; and the rule's example. -/
def Obligations.ResampleIgnoresTruncatedColumns : Prop :=
  (∀ (p : Params) (a b : DecodedImage) (m : Nat), a.shapeOk = true → b.shapeOk = true →
    a.width = b.width → a.height = b.height → a.channels = b.channels →
    (∀ x y k, x ≤ srcX a.width m (destWidth a.width m - 1) → y < a.height → k < a.channels →
      a.pixels[pixoff a.width a.channels x y k]? = b.pixels[pixoff a.width a.channels x y k]?) →
    resample p a m = resample p b m) ∧
  (∀ w m, 8 ≤ w → w ≤ m → srcX w m (destWidth w m - 1) + 1 = destWidth w m ∧
    destWidth w m ≤ w ∧ w ≤ destWidth w m + 7) ∧
  (∀ w m, 8 ≤ m → m < w → m % 8 ≠ 0 → srcX w m (destWidth w m - 1) < w - 1) ∧
  destWidth 20 10 = 8 ∧ srcX 20 10 7 = 14

/-- 41_luminance.md, NORMALIZE, "Alpha is ignored, not composited": two images that differ in their alpha bytes alone resample
alike. -/
def Obligations.ResampleIgnoresAlpha : Prop :=
  ∀ (p : Params) (a b : DecodedImage) (m : Nat), a.shapeOk = true → b.shapeOk = true →
    a.width = b.width → a.height = b.height → a.channels = b.channels → (a.channels = 2 ∨ a.channels = 4) →
    (∀ i, i % a.channels ≠ a.channels - 1 → a.pixels[i]? = b.pixels[i]?) →
    resample p a m = resample p b m

/-! ### Ditherer -/

/-- 43_ditherer.md, preconditions, quantize and output polarity. The scan starts from the raster's own samples; DITHER completes
on every raster of the contract: bit `i` is 1 exactly when the intensity the scan reads there is not above 0.5, a tie being
black; any other raster is refused. (That a direct DITHER writes M, and may take its operand from G, is deduced: log entry 6.)
-/
def Obligations.DitherQuantizesEachPixel : Prop :=
  ∀ (raster : GrayscaleRaster) (s : State),
    (ditherScan raster 0).work = raster.samples ∧
    (raster.ok = true →
      ∃ m : MonoRaster,
        exec (.dither (.given raster)) s = .next { s with M := some m } ∧
        (s.G = some raster → exec (.dither .buffer) s = .next { s with M := some m }) ∧
        m.width = raster.width ∧ m.height = raster.height ∧ m.bits.length = raster.width * raster.height ∧
        ∀ i, i < raster.width * raster.height →
          m.bits[i]? = some (if ((ditherScan raster i).work.getD i F64.zero).gt F64.half then 0 else 1)) ∧
    (raster.ok = false →
      exec (.dither (.given raster)) s = .refused .raster ∧
      (s.G = some raster → exec (.dither .buffer) s = .refused .raster))

/-- R154, R155. One pixel of the scan changes exactly the four cells of the kernel that lie inside the raster, each by its
share of the error, rounded once as a product and once as a sum. -/
def Obligations.DitherDiffusesToFourNeighbours : Prop :=
  ∀ (raster : GrayscaleRaster) (x y : Nat), raster.ok = true → x < raster.width → y < raster.height →
    ∀ tx ty, tx < raster.width → ty < raster.height →
      (ditherScan raster (y * raster.width + x + 1)).work.getD (ty * raster.width + tx) F64.zero =
        (let before := (ditherScan raster (y * raster.width + x)).work
         let v := before.getD (y * raster.width + x) F64.zero
         let err := v.sub (if v.gt F64.half then F64.one else F64.zero)
         let old := before.getD (ty * raster.width + tx) F64.zero
         if ty = y ∧ tx = x + 1 then old.add (err.mul F64.k7)
         else if ty = y + 1 ∧ tx + 1 = x then old.add (err.mul F64.k3)
         else if ty = y + 1 ∧ tx = x then old.add (err.mul F64.k5)
         else if ty = y + 1 ∧ tx = x + 1 then old.add (err.mul F64.k1)
         else old)

/-- R160. All black stays black and all white stays white, every error being +0.0 and the working copy never changing; the
kernel's constants sum to 1.0; and no share of an error exceeds the error. -/
def Obligations.DitherKeepsUniformRasters : Prop :=
  (∀ w h, dither ⟨w, h, List.replicate (w * h) F64.zero⟩ = .ok ⟨w, h, List.replicate (w * h) 1⟩ ∧
    ∀ n, n ≤ w * h → (ditherScan ⟨w, h, List.replicate (w * h) F64.zero⟩ n).work = List.replicate (w * h) F64.zero) ∧
  (∀ w h, dither ⟨w, h, List.replicate (w * h) F64.one⟩ = .ok ⟨w, h, List.replicate (w * h) 0⟩ ∧
    ∀ n, n ≤ w * h → (ditherScan ⟨w, h, List.replicate (w * h) F64.one⟩ n).work = List.replicate (w * h) F64.one) ∧
  (F64.zero.sub (quantize F64.zero) = F64.zero ∧ F64.one.sub (quantize F64.one) = F64.zero) ∧
  F64.k7.scaled + F64.k3.scaled + F64.k5.scaled + F64.k1.scaled = F64.one.scaled ∧
  (∀ e : F64, e.isFinite = true →
    (e.mul F64.k7).mag ≤ e.mag ∧ (e.mul F64.k3).mag ≤ e.mag ∧ (e.mul F64.k5).mag ≤ e.mag ∧ (e.mul F64.k1).mag ≤ e.mag)

/-- 43_ditherer.md, value bounds. Every intensity the scan reads lies in [-0.5, 1.5] and every error in [-0.5, 0.5], both
finite. (The rule says so "up to rounding"; the bounds being exact in binary64, rounding does not pass them.) -/
def Obligations.DitherValuesStayBounded : Prop :=
  ∀ (raster : GrayscaleRaster) (i : Nat), raster.ok = true → i < raster.width * raster.height →
    let v := (ditherScan raster i).work.getD i F64.zero
    let err := v.sub (quantize v)
    v.isFinite = true ∧ err.isFinite = true ∧
      -(2 ^ 1073) ≤ v.scaled ∧ v.scaled ≤ 3 * 2 ^ 1073 ∧ -(2 ^ 1073) ≤ err.scaled ∧ err.scaled ≤ 2 ^ 1073

/-! ### BitPacker -/

/-- 44_bitpacker.md, bit placement. PACK completes on every raster of the contract whose width is a multiple of 8: pixel `8j +
k` of row `y` is bit `7 - k` of the byte at `y·(w/8) + j`. (That a direct PACK writes P, and may take its operand from M, is
deduced: log entry 6.) -/
def Obligations.PackPlacesLeftmostPixelInBit7 : Prop :=
  ∀ (m : MonoRaster) (s : State), m.ok = true → m.width % 8 = 0 →
    ∃ p : PackedBitmap,
      exec (.pack (.given m)) s = .next { s with P := some p } ∧
      (s.M = some m → exec (.pack .buffer) s = .next { s with P := some p }) ∧
      p.width = m.width ∧ p.height = m.height ∧ p.bytes.length = m.width / 8 * m.height ∧
      ∀ y j k, y < m.height → j < m.width / 8 → k < 8 →
        (p.bytes.getD (y * (m.width / 8) + j) 0#8).getLsbD (7 - k)
          = decide (m.bits.getD (y * m.width + 8 * j + k) 0 = 1)

/-- 44_bitpacker.md, PACK and InvalidDimension, and 60_exceptions.md, fault entry and simultaneous events. PACK raises it,
recording the width, exactly when a well-formed raster's width is no multiple of 8, and writes nothing; an ill-formed raster is
refused first, whatever its width; the image path of RASTERIZE never raises it. (That a transaction takes its fault in `phase`
and `err` is the model's choice, log entry 5; the operand from M is deduced, log entry 6.) -/
def Obligations.PackRaisesInvalidDimension : Prop :=
  (∀ (m : MonoRaster) (s : State), m.ok = true →
    (m.width % 8 ≠ 0 →
      exec (.pack (.given m)) s = .next { s with err := .invalidDimension m.width, phase := .fault } ∧
      (s.M = some m → exec (.pack .buffer) s = .next { s with err := .invalidDimension m.width, phase := .fault })) ∧
    (∀ width, pack m = .error (.raise (.invalidDimension width)) ↔ m.width % 8 ≠ 0 ∧ width = m.width)) ∧
  (∀ (m : MonoRaster) (s : State), m.ok = false →
    exec (.pack (.given m)) s = .refused .raster ∧
    (s.M = some m → exec (.pack .buffer) s = .refused .raster)) ∧
  (∀ (p : Params) (image : DecodedImage) (maxWidth width : Nat),
    rasterizeImage p image maxWidth ≠ .error (.raise (.invalidDimension width)))

/-- 44_bitpacker.md, UNPACK. It completes on every packed bitmap of the contract and returns the raster of its bits; any other
is refused; it writes no buffer, and no job operation reaches it. (The field `answer` is the model's choice: log entry 5.) -/
def Obligations.UnpackReadsBit7First : Prop :=
  (∀ (p : PackedBitmap) (s : State),
    (p.width % 8 = 0 ∧ p.bytes.length = p.width / 8 * p.height →
      ∃ m : MonoRaster,
        exec (.unpack p) s = .next { s with answer := some (.mono m) } ∧
        m.width = p.width ∧ m.height = p.height ∧ m.bits.length = p.width * p.height ∧
        ∀ y j k, y < p.height → j < p.width / 8 → k < 8 →
          m.bits.getD (y * p.width + 8 * j + k) 0
            = if (p.bytes.getD (y * (p.width / 8) + j) 0#8).getLsbD (7 - k) then 1 else 0) ∧
    (¬ (p.width % 8 = 0 ∧ p.bytes.length = p.width / 8 * p.height) → exec (.unpack p) s = .refused .raster)) ∧
  (∀ (op : JobOp) (p : PackedBitmap), op.toInstr ≠ .unpack p)

/-- R174. Packing then unpacking gives the raster back, unpacking then packing the bitmap, and a width that is no multiple of
8 fails. -/
def Obligations.PackUnpackRoundTrip : Prop :=
  (∀ m : MonoRaster, m.ok = true → m.width % 8 = 0 → ∃ p, pack m = .ok p ∧ unpack p = .ok m) ∧
  (∀ p : PackedBitmap, p.ok = true → ∃ m, unpack p = .ok m ∧ pack m = .ok p) ∧
  (∀ m : MonoRaster, m.ok = true → m.width % 8 ≠ 0 → pack m = .error (.raise (.invalidDimension m.width)))

/-! ### CommandEncoder -/

/-- 45_command_encoder.md, RESET. It yields 1b 40 and leaves every element of the CORE but the log as it was. (What
`yieldsFrame` says of the operation outside a job, and of the answer used up, is the model's: log entries 3, 5, 7 and 16.) -/
def Obligations.ResetYieldsItsFrame : Prop := ∀ s : State, yieldsFrame .reset s [0x1b#8, 0x40#8]

/-- 45_command_encoder.md, SET_ALIGNMENT. It yields 1b 61 and the ordinal; any operand but the three is refused. (What
`yieldsFrame` says of the operation outside a job, and of the answer used up, is the model's: log entries 3, 5, 7 and 16.) -/
def Obligations.AlignmentYieldsItsOrdinal : Prop :=
  ∀ s : State,
    yieldsFrame (.setAlignment 0) s [0x1b#8, 0x61#8, 0x00#8] ∧
    yieldsFrame (.setAlignment 1) s [0x1b#8, 0x61#8, 0x01#8] ∧
    yieldsFrame (.setAlignment 2) s [0x1b#8, 0x61#8, 0x02#8] ∧
    ∀ n, 2 < n → exec (.setAlignment n) s = .refused .operand

/-- 45_command_encoder.md, SET_TEXT_STYLE. It yields 1b 21 and the flag byte, whose bits 3, 4, 5 and 7 are bold, double_height,
double_width and underline and whose other bits are clear; with that byte 0 it yields no frame. (What `yieldsFrame` says of the
operation outside a job, and of the answer used up, is the model's: log entries 3, 5, 7 and 16.) -/
def Obligations.StyleYieldsItsFlagByte : Prop :=
  ∀ (bold underline doubleWidth doubleHeight : Bool) (s : State),
    ∃ f : Byte,
      (f.getLsbD 3 = bold ∧ f.getLsbD 4 = doubleHeight ∧ f.getLsbD 5 = doubleWidth ∧ f.getLsbD 7 = underline ∧
        f.getLsbD 0 = false ∧ f.getLsbD 1 = false ∧ f.getLsbD 2 = false ∧ f.getLsbD 6 = false) ∧
      (f = 0x00#8 ↔ bold = false ∧ underline = false ∧ doubleWidth = false ∧ doubleHeight = false) ∧
      yieldsFrame (.setTextStyle bold underline doubleWidth doubleHeight) s
        (if f = 0x00#8 then [] else [0x1b#8, 0x21#8, f])

/-- 45_command_encoder.md, FEED_LINES, FEED_DOTS. They yield their opcode and the count itself; a count outside 0..255 is
refused. (What `yieldsFrame` says of the operation outside a job, and of the answer used up, is the model's: log entries 3, 5, 7
and 16.) -/
def Obligations.FeedsYieldTheirCount : Prop :=
  ∀ (n : Nat) (s : State),
    (n ≤ 255 → yieldsFrame (.feedLines n) s [0x1b#8, 0x64#8, BitVec.ofNat 8 n] ∧
      yieldsFrame (.feedDots n) s [0x1b#8, 0x4a#8, BitVec.ofNat 8 n]) ∧
    (255 < n → exec (.feedLines n) s = .refused .operand ∧ exec (.feedDots n) s = .refused .operand)

/-- 45_command_encoder.md, BITMAP_BLOCK. It yields the eight-byte header and the payload, for operands that pass the checks,
given with the transaction or taken from P. (What `yieldsFrame` says of the operation outside a job, and of the answer used up,
is the model's: log entries 3, 5, 7 and 16.) (Operands from P outside a job: log entry 6.) -/
def Obligations.BitmapYieldsHeaderAndPayload : Prop :=
  ∀ (mode : BitmapMode) (m : Byte) (packed : PackedBitmap) (s : State),
    mode.ordinal? s.params.bitmapModeExtra = some m → packed.width % 8 = 0 →
    packed.bytes.length = packed.width / 8 * packed.height → packed.width / 8 ≤ 65535 → packed.height ≤ 65535 →
    let frame := [0x1d#8, 0x76#8, 0x30#8, m,
      BitVec.ofNat 8 (packed.width / 8 % 256), BitVec.ofNat 8 (packed.width / 8 / 256),
      BitVec.ofNat 8 (packed.height % 256), BitVec.ofNat 8 (packed.height / 256)] ++ packed.bytes
    frame.length = 8 + packed.width / 8 * packed.height ∧
    yieldsFrame (.bitmapBlock mode (.given packed.width packed.height packed)) s frame ∧
    (s.P = some packed → yieldsFrame (.bitmapBlock mode .fromP) s frame)

/-- 45_command_encoder.md, BITMAP_BLOCK, operand checks. The checks in their order; with operands from a P in its canonical
form, the second always passes, and the third can fail. (Operands from P outside a job: log entry 6.) -/
def Obligations.BitmapChecksInOrder : Prop :=
  ∀ (mode : BitmapMode) (width height : Nat) (packed : PackedBitmap) (s : State),
    (mode.ordinal? s.params.bitmapModeExtra = none →
      exec (.bitmapBlock mode (.given width height packed)) s = .refused .operand) ∧
    (∀ m, mode.ordinal? s.params.bitmapModeExtra = some m →
      ¬ (width = packed.width ∧ height = packed.height ∧ packed.width % 8 = 0 ∧
        packed.bytes.length = packed.width / 8 * packed.height) →
      exec (.bitmapBlock mode (.given width height packed)) s = .refused .bitmapMismatch) ∧
    (∀ m, mode.ordinal? s.params.bitmapModeExtra = some m →
      width = packed.width ∧ height = packed.height ∧ packed.width % 8 = 0 ∧
        packed.bytes.length = packed.width / 8 * packed.height →
      ¬ (width / 8 ≤ 65535 ∧ height ≤ 65535) →
      exec (.bitmapBlock mode (.given width height packed)) s = .refused .headerRange) ∧
    (Memory.wf s = true → s.P = some packed → exec (.bitmapBlock mode .fromP) s ≠ .refused .bitmapMismatch) ∧
    (s.P = some packed → exec (.bitmapBlock mode .fromP) s
      = exec (.bitmapBlock mode (.given packed.width packed.height packed)) s) ∧
    (packed.ok = true → 65535 < packed.height → s.P = some packed →
      exec (.bitmapBlock .normal .fromP) s = .refused .headerRange)

/-- 45_command_encoder.md, WRITE_TEXT. It yields its bytes unchanged, control bytes among them; the empty text yields no frame.
(What `yieldsFrame` says of the operation outside a job, and of the answer used up, is the model's: log entries 3, 5, 7 and 16.)
-/
def Obligations.TextYieldsItsBytes : Prop := ∀ (text : List Byte) (s : State), yieldsFrame (.writeText text) s text

/-! ### EMIT and the transport -/

/-- 46_sequencer.md, EMIT, interpreting the transport's answer, and empty frames. The four readings of the answer; and an empty
frame makes no call. (The fields `txAnswers`, `txCalls` and `txPending` are the model's, log entries 3 and 16; that an EMIT
outside a job logs its frame, and records the register `jpc` in its TransportError, log entry 5.) -/
def Obligations.EmitReadsTheAnswer : Prop :=
  ∀ (f : List Byte) (s : State),
    (f = [] → exec (.emit f) s = .next s) ∧
    (f ≠ [] →
      (s.txAnswer f = .accepted f.length →
        exec (.emit f) s = .next { s with txlog := s.txlog ++ [f]
                                          txAnswers := s.txAnswers.tail, txCalls := s.txCalls + 1, txPending := none }) ∧
      (∀ n, s.txAnswer f = .accepted n → n < f.length →
        exec (.emit f) s = .next { s with err := .transportError "short write" s.jpc (some n), phase := .fault
                                          txAnswers := s.txAnswers.tail, txCalls := s.txCalls + 1, txPending := none }) ∧
      (∀ n, s.txAnswer f = .accepted n → f.length < n → exec (.emit f) s = .refused .txProtocol) ∧
      (∀ reason, s.txAnswer f = .transportError reason →
        exec (.emit f) s = .next { s with err := .transportError reason s.jpc none, phase := .fault
                                          txAnswers := s.txAnswers.tail, txCalls := s.txCalls + 1, txPending := none }))

/-- 10_state.md, transmission log, and 46_sequencer.md, EMIT: a step of a running job makes at most one transport call, for the
frame of the operation at `jpc`, and appends to the log exactly that frame where the call took it whole, and nothing otherwise.
(The fields `txAnswers`, `txCalls` and `txPending` are the model's: log entries 3 and 16.) -/
def Obligations.LogGrowsByAcceptedFrames : Prop :=
  ∀ s t : State, s.moves = [] → step s = .next t →
    (t.txlog = s.txlog ∧ t.txCalls = s.txCalls ∧ t.txAnswers = s.txAnswers) ∨
    (t.txCalls = s.txCalls + 1 ∧ t.txAnswers = s.txAnswers.tail ∧ t.txPending = none ∧
      ∃ f, f ≠ [] ∧ s.nextFrame = some f ∧
        ((t.phase = .fault ∧ s.txAnswer f ≠ .accepted f.length ∧ t.txlog = s.txlog) ∨
         (t.phase = .run ∧ s.txAnswer f = .accepted f.length ∧ t.txlog = s.txlog ++ [f])))

/-! ### Encoding -/

/-- 30_encoding.md. Decoding the words of a well-formed operation gives it back, with the rest of the stream, whatever its
operands; for a text, whose frame has no length of its own, the statement is about one byte that starts no command. (The words
1b 21 00 of the all-default style, which the CORE never sends, and their reading are the model's choice: log entry 8; that no
byte names two modes, log entry 19.) -/
def Obligations.DecodeOfEncodeIsIdentity : Prop :=
  ∀ (modes : ModeMap) (i : Instr) (f rest : List Byte), modeMapWf modes → encode modes i = some f →
    (∀ text, i = .writeText text → ∃ b, text = [b] ∧ plainByte b) →
    decode modes (f ++ rest) = .ok (i, rest)

/-- 30_encoding.md. What the decoder reads is well formed, and the bytes it consumed are that operation's words: no byte of a
frame is skipped or added. (The words 1b 21 00 of the all-default style, which the CORE never sends, and their reading are the
model's choice: log entry 8; that no byte names two modes, log entry 19.) -/
def Obligations.DecodedBytesAreTheEncoding : Prop :=
  ∀ (modes : ModeMap) (bs rest : List Byte) (i : Instr), modeMapWf modes → decode modes bs = .ok (i, rest) →
    i.wf modes = true ∧ ∃ f, encode modes i = some f ∧ f ≠ [] ∧ bs = f ++ rest

/-- 30_encoding.md, decodability of the stream: when no text holds 0x1b or 0x1d, the concatenated frames split in one way, back
into the operations, each text being read byte by byte. (The words 1b 21 00 of the all-default style, which the CORE never
sends, and their reading are the model's choice: log entry 8; that no byte names two modes, log entry 19.) -/
def Obligations.StreamDecodesToItsOperations : Prop :=
  ∀ (modes : ModeMap) (ops : List Instr) (frames : List (List Byte)), modeMapWf modes →
    ops.map (encode modes) = frames.map some →
    (∀ text, Instr.writeText text ∈ ops → ∀ b ∈ text, plainByte b) →
    ∀ fuel, frames.flatten.length ≤ fuel → decodeStream modes fuel frames.flatten = .ok (ops.flatMap asRead)

/-- 30_encoding.md, the words of the spec's examples and the table's rows decode to their operations (a sanity statement). -/
def Obligations.SpecWordsDecode : Prop :=
  decode [] [0x1b#8, 0x40#8] = .ok (.reset, []) ∧
  decode [] [0x1b#8, 0x61#8, 0x01#8] = .ok (.setAlignment 1, []) ∧
  decode [] [0x1b#8, 0x21#8, 0xb8#8] = .ok (.setTextStyle true true true true, []) ∧
  decode [] [0x1b#8, 0x64#8, 0xff#8] = .ok (.feedLines 255, []) ∧
  decode [] [0x1b#8, 0x4a#8, 0x18#8] = .ok (.feedDots 24, []) ∧
  decode [] [0x1d#8, 0x76#8, 0x30#8, 0x00#8, 0x01#8, 0x00#8, 0x01#8, 0x00#8, 0xa4#8]
    = .ok (.bitmapBlock .normal (.given 8 1 ⟨8, 1, [0xa4#8]⟩), []) ∧
  decode [] [0x4f#8] = .ok (.writeText [0x4f#8], [])

/-! ### The sequencer -/

/-- 46_sequencer.md, step. A step of a running job runs the operation at `jpc`, and moves `jpc` by one if no fault was raised
and nothing was refused; at the job's end the phase becomes DONE. -/
def Obligations.StepRunsTheJobOperation : Prop :=
  ∀ s : State, s.moves = [] → s.phase = .run →
    (s.jpc = s.job.length → step s = .next { s with phase := .done }) ∧
    (∀ op, s.job[s.jpc]? = some op →
      (∀ t, exec op.toInstr s = .next t → t.phase ≠ .fault → step s = .next { t with jpc := s.jpc + 1 }) ∧
      (∀ t, exec op.toInstr s = .next t → t.phase = .fault → step s = .next t) ∧
      (∀ r, exec op.toInstr s = .refused r → step s = .refused r))

/-- The model's own interface (log entry 9): a table word that decodes is placed as the one operation of a running job, and
the next step runs exactly that operation and moves `jpc` past it. A decoded BITMAP_BLOCK is placed with its payload in P. -/
def Obligations.StepRunsTheDecodedWord : Prop :=
  ∀ (s : State) (nbits w : Nat) (i : Instr), decodeTableWord nbits w = some i →
    ∃ op : JobOp,
      (s.withFetchWord nbits w).job = [op] ∧ (s.withFetchWord nbits w).jpc = 0 ∧
      (op.toInstr = i ∨
        ∃ p : PackedBitmap, i = .bitmapBlock .normal (.given p.width p.height p) ∧ op = .bitmapBlock .normal ∧
          (s.withFetchWord nbits w).P = some p) ∧
      (∃ t, exec op.toInstr (s.withFetchWord nbits w) = .next t ∧ t.phase = .run ∧
        step (s.withFetchWord nbits w) = .next { t with jpc := 1 })

/-- The model's own interface (log entry 9): running a table word that decodes sends its own bytes, the all-default
style alone sending nothing. -/
def Obligations.RunningAWordSendsItsBytes : Prop :=
  ∀ (s : State) (nbits w : Nat) (i : Instr) (f : List Byte), s.params = Params.reference →
    decodeTableWord nbits w = some i → encode [] i = some f →
    ∃ t, step (s.withFetchWord nbits w) = .next t ∧ t.jpc = 1 ∧ t.phase = .run ∧
      t.txlog = if i = .setTextStyle false false false false then s.txlog else s.txlog ++ [f]

/-- 46_sequencer.md, RASTERIZE. RASTERIZE in the order of its checks: refused with no image, fault on a decode error, refused on
a bad image, and otherwise (for a `LUM_POW` whose values are intensities) it completes and writes G, M and P, each stage's
result, together. -/
def Obligations.RasterizeRunsTheImagePath : Prop :=
  ∀ s : State,
    (s.img = none → exec .rasterize s = .refused .unwritten) ∧
    (∀ cfg, s.cfg = some cfg →
      (∀ reason, s.img = some (.decodeError reason) →
        exec .rasterize s = .next { s with err := .decodeError reason, phase := .fault }) ∧
      (∀ image, s.img = some (.ok image) → image.shapeOk = false → exec .rasterize s = .refused .imageShape) ∧
      (∀ image, s.img = some (.ok image) → image.shapeOk = true → tableInRange s.params →
        ∃ g m p, resample s.params image cfg.maxWidth = .ok g ∧ dither g = .ok m ∧ pack m = .ok p ∧
          exec .rasterize s = .next { s with G := some g, M := some m, P := some p }))

/-- 10_state.md, unwritten state. An operation that reads a buffer holding no value is refused. (That DITHER, PACK and
BITMAP_BLOCK take a buffer as operand outside a job is deduced: log entry 6.) -/
def Obligations.UnwrittenBuffersAreRefused : Prop :=
  ∀ s : State,
    (s.G = none → exec (.dither .buffer) s = .refused .unwritten) ∧
    (s.M = none → exec (.pack .buffer) s = .refused .unwritten) ∧
    (s.P = none → ∀ mode, exec (.bitmapBlock mode .fromP) s = .refused .unwritten) ∧
    (s.img = none → exec .rasterize s = .refused .unwritten)

/-- R24. The job counter: 0 at START, moved by exactly 1 by each operation that completes, kept by a fault, and changed by no
operation itself. -/
def Obligations.JobCounterMovesByOne : Prop :=
  (∀ (i : Instr) (s t : State), exec i s = .next t → t.jpc = s.jpc) ∧
  (∀ s t : State, s.start = .next t → t.jpc = 0) ∧
  (∀ s t : State, s.moves = [] → s.phase = .run → s.jpc < s.job.length → step s = .next t →
    (t.phase = .run ∧ t.jpc = s.jpc + 1) ∨ (t.phase = .fault ∧ t.jpc = s.jpc))

/-- 10_state.md, buffer lifetime inside a job. RASTERIZE that completes writes its three results over all three buffers, every
other job operation leaves all three, and nothing clears one. -/
def Obligations.OnlyRasterizeWritesBuffersInAJob : Prop :=
  ∀ (s t : State) (op : JobOp), s.moves = [] → s.phase = .run → s.job[s.jpc]? = some op → step s = .next t →
    (op ≠ .rasterize → t.G = s.G ∧ t.M = s.M ∧ t.P = s.P) ∧
    (op = .rasterize → t.phase = .run →
      ∃ g m p, rasterize s = .ok (g, m, p) ∧ t.G = some g ∧ t.M = some m ∧ t.P = some p) ∧
    (t.phase = .fault → t.G = s.G ∧ t.M = s.M ∧ t.P = s.P)

/-- 20_memory.md, the index spaces: each raster buffer is written by its own operation and RASTERIZE alone, and the latched
inputs, the staged inputs and the parameters by no operation. -/
def Obligations.OperationsWriteOnlyTheirOwnState : Prop :=
  ∀ (i : Instr) (s t : State), exec i s = .next t →
    (t.G ≠ s.G → i = .rasterize ∨ ∃ image m, i = .resample image m) ∧
    (t.M ≠ s.M → i = .rasterize ∨ ∃ src, i = .dither src) ∧
    (t.P ≠ s.P → i = .rasterize ∨ ∃ src, i = .pack src) ∧
    (t.txlog ≠ s.txlog → (∃ f, i = .emit f) ∨ (isEncoder i = true ∧ s.phase = .run)) ∧
    (t.phase = s.phase ∨ t.phase = .fault) ∧
    t.cfg = s.cfg ∧ t.job = s.job ∧ t.img = s.img ∧ t.cfgIn = s.cfgIn ∧ t.jobIn = s.jobIn ∧ t.imgIn = s.imgIn ∧
    t.params = s.params ∧ t.moves = s.moves

/-- 20_memory.md, program coherence, and 70_reset_and_hazards.md, input immutability: while a job runs, no step but a block
reset changes the latched configuration, job or image. -/
def Obligations.LatchedInputsAreImmutableInRun : Prop :=
  ∀ s t : State, s.phase = .run → s.moves.head? ≠ some .blockReset → step s = .next t →
    t.cfg = s.cfg ∧ t.job = s.job ∧ t.img = s.img

/-! ### Faults -/

/-- 60_exceptions.md, fault entry. An operation that raises a fault records it, sets the phase to FAULT, and changes nothing
else of the CORE; `jpc` stays, and none of its results is written. (The transport's answer used up and its call over are the
environment's: log entries 3 and 16. That a transaction outside a job takes its fault so is the model's choice: log entry 5.) -/
def Obligations.FaultEntryChangesOnlyErrAndPhase : Prop :=
  ∀ (i : Instr) (s t : State), s.phase ≠ .fault → exec i s = .next t → t.phase = .fault →
    t.err ≠ .none ∧
    t = { s with err := t.err, phase := .fault, txAnswers := t.txAnswers, txCalls := t.txCalls, txPending := t.txPending }

/-- 60_exceptions.md, fault codes and causes. The causes of the three faults and what each records; no other operation raises
one. A TransportError is about the operation's own frame. (That a transaction outside a job takes its fault in `phase` and
`err`, and that the TransportError of a direct EMIT, whose frame has no index in a job, records the register `jpc`, are the
model's choice: log entry 5. The transport's answer is the model's free value: log entry 3. PACK's operand from M outside a job
is deduced: log entry 6.) -/
def Obligations.FaultCausesAndRecords : Prop :=
  ∀ (i : Instr) (s t : State), s.phase ≠ .fault → exec i s = .next t → t.phase = .fault →
    (i = .rasterize ∧ t.err.code = 1 ∧ ∃ reason, s.img = some (.decodeError reason) ∧ t.err = .decodeError reason) ∨
    (t.err.code = 2 ∧ ∃ src m, i = .pack src ∧ monoOperand s src = .ok m ∧ m.width % 8 ≠ 0 ∧
      t.err = .invalidDimension m.width) ∨
    (t.err.code = 3 ∧ (isEncoder i = true → s.phase = .run) ∧ ∃ f, frameOf s i = some f ∧ f ≠ [] ∧
      ((∃ reason, s.txAnswer f = .transportError reason ∧ t.err = .transportError reason s.jpc none) ∨
       (∃ n, n < f.length ∧ s.txAnswer f = .accepted n ∧ t.err = .transportError "short write" s.jpc (some n))))

/-- R239. FAULT and its record persist until block reset: no other step changes the phase, the record, the counter, the log, a
buffer or a latched input; and START is refused. -/
def Obligations.FaultPersistsUntilBlockReset : Prop :=
  ∀ s t : State, s.phase = .fault →
    (step s = .next t → s.moves.head? ≠ some .blockReset →
      t.phase = .fault ∧ t.err = s.err ∧ t.jpc = s.jpc ∧ t.txlog = s.txlog ∧ t.G = s.G ∧ t.M = s.M ∧ t.P = s.P ∧
      t.cfg = s.cfg ∧ t.job = s.job ∧ t.img = s.img) ∧
    (s.moves.head? = some .start → step s = .refused .notReady) ∧
    (s.moves.head? = some .blockReset → ∃ u, step s = .next u ∧ u.phase = .idle ∧ u.err = .none)

/-- 46_sequencer.md, fail-fast: once a job has faulted, the CORE on its own executes no further operation, however long it
runs. -/
def Obligations.FaultStopsTheJob : Prop :=
  ∀ (s t : State) (n : Nat), s.moves = [] → s.phase = .run → step s = .next t → t.phase = .fault →
    Host.Core.run Sys2Proof.core (n + 1) s = .next t

/-- 60_exceptions.md, DecodeError. A decode error aborts a canonical image job before any frame: after START the job is in FAULT
at operation 0 with the reason recorded and nothing sent, and stays there. -/
def Obligations.DecodeErrorAbortsBeforeAnyFrame : Prop :=
  ∀ (s : State) (cfg : Cfg) (reason : String) (a : Sys2Proof.Alignment) (st : Style) (mode : BitmapMode) (feed : Feed) (n : Nat),
    s.phase = .idle → s.moves = [.start] → s.cfgIn = some cfg → s.imgIn = some (.decodeError reason) →
    s.jobIn = printImage a st mode feed →
    ∃ t, Host.Core.run Sys2Proof.core (n + 2) s = .next t ∧ t.phase = .fault ∧ t.jpc = 0 ∧
      t.err = .decodeError reason ∧ t.txlog = [] ∧ t.txCalls = s.txCalls ∧ t.G = none ∧ t.M = none ∧ t.P = none

/-- 30_encoding.md, operand typing. An operand outside its type is refused with REF_OPERAND: an alignment that is none of the
three, a feed count or a channel value outside 0..255, a mode neither NORMAL nor named. -/
def Obligations.OperandsOutsideTheirTypeAreRefused : Prop :=
  ∀ s : State,
    (∀ n, (∀ a : Sys2Proof.Alignment, a.ordinal.toNat ≠ n) → exec (.setAlignment n) s = .refused .operand) ∧
    (∀ n, 255 < n → exec (.feedLines n) s = .refused .operand ∧ exec (.feedDots n) s = .refused .operand) ∧
    (∀ r g b, 255 < r ∨ 255 < g ∨ 255 < b → exec (.luminance r g b) s = .refused .operand) ∧
    (∀ name w h p, (∀ e ∈ s.params.bitmapModeExtra, e.1 ≠ name) →
      exec (.bitmapBlock (.extra name) (.given w h p)) s = .refused .operand)

/-- 46_sequencer.md, the job, and 30_encoding.md, operand typing: an operation is taken into a job exactly when it is one of the
eight with its operands in their types, and it is then run as it was written; a list is taken as the job it spells; and the write
of any other list is refused with REF_OPERAND and stages nothing. (That a job is typed when it is written is the model's choice:
log entry 12.) -/
def Obligations.JobsHoldExactlyTheTypedOperations : Prop :=
  (∀ modes : ModeMap,
    (∀ (i : Instr) (op : JobOp), JobOp.ofInstr? modes i = some op → op.toInstr = i ∧ i.wf modes = true) ∧
    (∀ i : Instr, JobOp.ofInstr? modes i = none →
      i.wf modes = false ∨ ∀ op : JobOp, op.toInstr ≠ i) ∧
    (∀ op : JobOp, op.toInstr.wf modes = true → JobOp.ofInstr? modes op.toInstr = some op) ∧
    (∀ (ops : List Instr) (job : List JobOp), jobOfInstrs? modes ops = some job ↔
      job.map JobOp.toInstr = ops ∧ ∀ op ∈ job, op.toInstr.wf modes = true)) ∧
  (∀ (s : State) (ops : List Instr) (rest : List HostMove), s.phase = .idle ∨ s.phase = .done →
    s.moves = .writeJob ops :: rest →
    (∀ job : List JobOp, job.map JobOp.toInstr = ops → (∀ op ∈ job, op.toInstr.wf s.params.bitmapModeExtra = true) →
      step s = .next { s with moves := rest, jobIn := job }) ∧
    ((∀ job : List JobOp, job.map JobOp.toInstr = ops → ∃ op ∈ job, op.toInstr.wf s.params.bitmapModeExtra = false) →
      step s = .refused .operand))

/-! ### Reset, START and STATUS -/

/-- 10_state.md, reset values, and 70_reset_and_hazards.md, two resets. The state after block reset: IDLE, counter 0, no
configuration, no job, no image, empty buffers, no error, an empty log, from any state and phase, and no transport call
outstanding; and START with no configuration written is refused. (That an abandoned call leaves the field `txPending` empty is
R260 in the model's own field: log entry 16.) -/
def Obligations.ResetValuesAreTheSpecs : Prop :=
  State.reset.phase = .idle ∧ State.reset.jpc = 0 ∧ State.reset.cfg = none ∧ State.reset.job = [] ∧
  State.reset.img = none ∧ State.reset.G = none ∧ State.reset.M = none ∧ State.reset.P = none ∧
  State.reset.err = .none ∧ State.reset.err.code = 0 ∧ State.reset.txlog = [] ∧
  (∀ s : State, s.moves.head? = some .blockReset →
    ∃ t, step s = .next t ∧ t.phase = .idle ∧ t.jpc = 0 ∧ t.cfg = none ∧ t.job = [] ∧ t.img = none ∧
      t.G = none ∧ t.M = none ∧ t.P = none ∧ t.err = .none ∧ t.txlog = [] ∧ t.txPending = none) ∧
  ∀ s : State, s.cfgIn = none → s.moves.head? = some .start → step s = .refused .notReady

/-- 10_state.md, host control inputs, and 70_reset_and_hazards.md, two resets. Each move of the outside: block reset at any time,
an outstanding transport call being abandoned and its answer ignored; the writes stage the next job's inputs in IDLE and DONE;
START in IDLE and DONE latches them and starts the job, and is refused in FAULT; STATUS is read at any time; a change of the inputs
in RUN is no move; a move `tick` is the CORE's own step; a transaction is exec of its operation; and a transport that does not
answer leaves everything but the outstanding call as it was. (The list of moves and the refusal of a move the outside does not have
are the model's choice, log entry 4; transactions and `answer`, 5; staged inputs kept by START and cleared by block reset, 11; the
typing of a job at its write, 12; what block reset keeps, 15; the outstanding call, 16.) -/
def Obligations.HostMovesOfTheTable : Prop :=
  ∀ (s : State) (rest : List HostMove),
    (s.moves = .blockReset :: rest →
      (s.txPending = none → step s = .next { State.reset with params := s.params, moves := rest
                                                              txAnswers := s.txAnswers, txCalls := s.txCalls }) ∧
      (∀ f, s.txPending = some f →
        step s = .next { State.reset with params := s.params, moves := rest
                                          txAnswers := s.txAnswers.tail, txCalls := s.txCalls + 1 })) ∧
    (s.moves = .tick :: rest → step s = coreStep { s with moves := rest }) ∧
    (s.moves = .readStatus :: rest →
      step s = .next { s with moves := rest, answer := some (.status s.phase s.err s.jpc) }) ∧
    (s.phase = .idle ∨ s.phase = .done →
      (∀ c, s.moves = .writeCfg c :: rest → step s = .next { s with moves := rest, cfgIn := some c }) ∧
      (∀ r, s.moves = .writeImg r :: rest → step s = .next { s with moves := rest, imgIn := some r }) ∧
      (∀ ops job, s.moves = .writeJob ops :: rest → jobOfInstrs? s.params.bitmapModeExtra ops = some job →
        step s = .next { s with moves := rest, jobIn := job }) ∧
      (∀ c, s.moves = .start :: rest → s.cfgIn = some c →
        step s = .next { s with moves := rest, cfg := some c, job := s.jobIn, img := s.imgIn, jpc := 0, err := .none
                                txlog := [], G := none, M := none, P := none, phase := .run }) ∧
      (∀ i, s.moves = .transact i :: rest → step s = exec i { s with moves := rest })) ∧
    (s.phase = .run ∨ s.phase = .fault →
      (∀ c, s.moves = .writeCfg c :: rest → step s = .refused .hostMoveNotAdmitted) ∧
      (∀ r, s.moves = .writeImg r :: rest → step s = .refused .hostMoveNotAdmitted) ∧
      (∀ ops, s.moves = .writeJob ops :: rest → step s = .refused .hostMoveNotAdmitted) ∧
      (∀ i, s.moves = .transact i :: rest → step s = .refused .hostMoveNotAdmitted) ∧
      (s.moves = .start :: rest → step s = .refused .notReady)) ∧
    (s.moves = .callPending :: rest →
      (∀ op f, s.phase = .run → s.job[s.jpc]? = some op → frameOf s op.toInstr = some f → f ≠ [] →
        step s = .next { s with moves := rest, txPending := some f }) ∧
      (s.nextFrame = none ∨ s.nextFrame = some [] → step s = .refused .hostMoveNotAdmitted) ∧
      (s.phase ≠ .run → step s = .refused .hostMoveNotAdmitted))

/-- 10_state.md, port STATUS. Port STATUS gives the phase, the error record and the counter, and reading it changes nothing of
the CORE; a finished job reports DONE with code 0, or FAULT with a code that is not 0. (The field `answer` is the model's: log
entry 5.) -/
def Obligations.StatusReportsPhaseErrAndCounter : Prop :=
  ∀ (s : State) (rest : List HostMove), Inv s →
    (s.moves = .readStatus :: rest →
      step s = .next { s with moves := rest, answer := some (.status s.phase s.err s.jpc) }) ∧
    (s.phase = .done → s.err.code = 0) ∧ (s.phase = .fault → s.err.code ≠ 0)

/-! ### Jobs -/

/-- 46_sequencer.md, canonical job order and the two macros. The canonical jobs are exactly the expansions of the two macros. -/
def Obligations.CanonicalJobsAreTheMacros : Prop :=
  ∀ job : List JobOp, canonicalJob job = true ↔
    (∃ a st mode feed, job = printImage a st mode feed) ∨ (∃ a st text feed, job = printText a st text feed)

/-- 46_sequencer.md, end of a run: a running job on its own ends, in DONE, in FAULT or refused, within one step more than the
operations it still has. (It rests on every transport call being answered, as the spec assumes: log entry 16.) -/
def Obligations.EveryRunEnds : Prop :=
  ∀ s : State, s.moves = [] → s.phase = .run → s.jpc ≤ s.job.length →
    ended (Host.Core.run Sys2Proof.core (s.job.length - s.jpc + 1) s)

/-- 46_sequencer.md, end of a run, and 20_memory.md, stream order: a job of frame operations (so without RASTERIZE) whose every
frame the transport takes whole ends in DONE, and its log is the frames of its operations, in job order, the empty ones left
out. (The fields `txAnswers`, `txCalls` and `txPending` are the model's: log entries 3 and 16.) -/
def Obligations.AcceptedJobSendsItsFramesInOrder : Prop :=
  ∀ (s : State) (frames : List (List Byte)), s.moves = [] → s.phase = .run → s.jpc = 0 → s.txlog = [] →
    s.job.map (jobFrame s) = frames.map some →
    s.txAnswers = (frames.filter (fun f => f ≠ [])).map (fun f => .accepted f.length) →
    Host.Core.run Sys2Proof.core (s.job.length + 1) s
      = .next { s with phase := .done, jpc := s.job.length, txlog := frames.filter (fun f => f ≠ [])
                       txAnswers := [], txCalls := s.txCalls + (frames.filter (fun f => f ≠ [])).length
                       txPending := if frames.filter (fun f => f ≠ []) = [] then s.txPending else none }

/-- The machine's invariant at reset. -/
def Obligations.ResetHasTheInvariant : Prop := Inv State.reset

/-- The machine's invariant is kept by every step, from every state that has it, whatever the outside does: `err` holds a fault
exactly in FAULT, the counter lies inside the job and at its end in DONE, IDLE has no job, a running job has its
configuration, the buffers keep their canonical form, and an outstanding transport call is that of the operation at `jpc`. -/
def Obligations.EveryStepKeepsTheInvariant : Prop :=
  ∀ s t : State, Inv s → step s = .next t → Inv t
end

