-- ==== Sys2Proof/Laws/State.lean ====
section
/-! SUPPORT. One lemma per field per update of the state, each true by rfl, so that no later proof unfolds an update:
fault entry (`State.raise`), the transport call (`State.sent`), block reset (`State.blockReset`) and reset. -/

namespace Sys2Proof.Machine

@[simp] theorem State.raise_phase (s : State) (e : ErrRec) : (s.raise e).phase = .fault := rfl
@[simp] theorem State.raise_jpc (s : State) (e : ErrRec) : (s.raise e).jpc = s.jpc := rfl
@[simp] theorem State.raise_cfg (s : State) (e : ErrRec) : (s.raise e).cfg = s.cfg := rfl
@[simp] theorem State.raise_job (s : State) (e : ErrRec) : (s.raise e).job = s.job := rfl
@[simp] theorem State.raise_img (s : State) (e : ErrRec) : (s.raise e).img = s.img := rfl
@[simp] theorem State.raise_G (s : State) (e : ErrRec) : (s.raise e).G = s.G := rfl
@[simp] theorem State.raise_M (s : State) (e : ErrRec) : (s.raise e).M = s.M := rfl
@[simp] theorem State.raise_P (s : State) (e : ErrRec) : (s.raise e).P = s.P := rfl
@[simp] theorem State.raise_err (s : State) (e : ErrRec) : (s.raise e).err = e := rfl
@[simp] theorem State.raise_txlog (s : State) (e : ErrRec) : (s.raise e).txlog = s.txlog := rfl
@[simp] theorem State.raise_cfgIn (s : State) (e : ErrRec) : (s.raise e).cfgIn = s.cfgIn := rfl
@[simp] theorem State.raise_jobIn (s : State) (e : ErrRec) : (s.raise e).jobIn = s.jobIn := rfl
@[simp] theorem State.raise_imgIn (s : State) (e : ErrRec) : (s.raise e).imgIn = s.imgIn := rfl
@[simp] theorem State.raise_answer (s : State) (e : ErrRec) : (s.raise e).answer = s.answer := rfl
@[simp] theorem State.raise_params (s : State) (e : ErrRec) : (s.raise e).params = s.params := rfl
@[simp] theorem State.raise_moves (s : State) (e : ErrRec) : (s.raise e).moves = s.moves := rfl
@[simp] theorem State.raise_txAnswers (s : State) (e : ErrRec) : (s.raise e).txAnswers = s.txAnswers := rfl
@[simp] theorem State.raise_txCalls (s : State) (e : ErrRec) : (s.raise e).txCalls = s.txCalls := rfl
@[simp] theorem State.raise_txPending (s : State) (e : ErrRec) : (s.raise e).txPending = s.txPending := rfl

@[simp] theorem State.sent_phase (s : State) : s.sent.phase = s.phase := rfl
@[simp] theorem State.sent_jpc (s : State) : s.sent.jpc = s.jpc := rfl
@[simp] theorem State.sent_cfg (s : State) : s.sent.cfg = s.cfg := rfl
@[simp] theorem State.sent_job (s : State) : s.sent.job = s.job := rfl
@[simp] theorem State.sent_img (s : State) : s.sent.img = s.img := rfl
@[simp] theorem State.sent_G (s : State) : s.sent.G = s.G := rfl
@[simp] theorem State.sent_M (s : State) : s.sent.M = s.M := rfl
@[simp] theorem State.sent_P (s : State) : s.sent.P = s.P := rfl
@[simp] theorem State.sent_err (s : State) : s.sent.err = s.err := rfl
@[simp] theorem State.sent_txlog (s : State) : s.sent.txlog = s.txlog := rfl
@[simp] theorem State.sent_cfgIn (s : State) : s.sent.cfgIn = s.cfgIn := rfl
@[simp] theorem State.sent_jobIn (s : State) : s.sent.jobIn = s.jobIn := rfl
@[simp] theorem State.sent_imgIn (s : State) : s.sent.imgIn = s.imgIn := rfl
@[simp] theorem State.sent_answer (s : State) : s.sent.answer = s.answer := rfl
@[simp] theorem State.sent_params (s : State) : s.sent.params = s.params := rfl
@[simp] theorem State.sent_moves (s : State) : s.sent.moves = s.moves := rfl
@[simp] theorem State.sent_txAnswers (s : State) : s.sent.txAnswers = s.txAnswers.tail := rfl
@[simp] theorem State.sent_txCalls (s : State) : s.sent.txCalls = s.txCalls + 1 := rfl
@[simp] theorem State.sent_txPending (s : State) : s.sent.txPending = none := rfl

@[simp] theorem State.blockReset_phase (s : State) : s.blockReset.phase = .idle := rfl
@[simp] theorem State.blockReset_jpc (s : State) : s.blockReset.jpc = 0 := rfl
@[simp] theorem State.blockReset_cfg (s : State) : s.blockReset.cfg = none := rfl
@[simp] theorem State.blockReset_job (s : State) : s.blockReset.job = [] := rfl
@[simp] theorem State.blockReset_img (s : State) : s.blockReset.img = none := rfl
@[simp] theorem State.blockReset_G (s : State) : s.blockReset.G = none := rfl
@[simp] theorem State.blockReset_M (s : State) : s.blockReset.M = none := rfl
@[simp] theorem State.blockReset_P (s : State) : s.blockReset.P = none := rfl
@[simp] theorem State.blockReset_err (s : State) : s.blockReset.err = .none := rfl
@[simp] theorem State.blockReset_txlog (s : State) : s.blockReset.txlog = [] := rfl
@[simp] theorem State.blockReset_cfgIn (s : State) : s.blockReset.cfgIn = none := rfl
@[simp] theorem State.blockReset_jobIn (s : State) : s.blockReset.jobIn = [] := rfl
@[simp] theorem State.blockReset_imgIn (s : State) : s.blockReset.imgIn = none := rfl
@[simp] theorem State.blockReset_answer (s : State) : s.blockReset.answer = none := rfl
@[simp] theorem State.blockReset_params (s : State) : s.blockReset.params = s.params := rfl
@[simp] theorem State.blockReset_moves (s : State) : s.blockReset.moves = s.moves := rfl
@[simp] theorem State.blockReset_txAnswers (s : State) : s.blockReset.txAnswers = s.abandonCall.txAnswers := rfl
@[simp] theorem State.blockReset_txCalls (s : State) : s.blockReset.txCalls = s.abandonCall.txCalls := rfl
@[simp] theorem State.blockReset_txPending (s : State) : s.blockReset.txPending = none := rfl

@[simp] theorem State.reset_phase : State.reset.phase = .idle := rfl
@[simp] theorem State.reset_jpc : State.reset.jpc = 0 := rfl
@[simp] theorem State.reset_cfg : State.reset.cfg = none := rfl
@[simp] theorem State.reset_job : State.reset.job = [] := rfl
@[simp] theorem State.reset_img : State.reset.img = none := rfl
@[simp] theorem State.reset_G : State.reset.G = none := rfl
@[simp] theorem State.reset_M : State.reset.M = none := rfl
@[simp] theorem State.reset_P : State.reset.P = none := rfl
@[simp] theorem State.reset_err : State.reset.err = .none := rfl
@[simp] theorem State.reset_txlog : State.reset.txlog = [] := rfl
@[simp] theorem State.reset_cfgIn : State.reset.cfgIn = none := rfl
@[simp] theorem State.reset_jobIn : State.reset.jobIn = [] := rfl
@[simp] theorem State.reset_imgIn : State.reset.imgIn = none := rfl
@[simp] theorem State.reset_answer : State.reset.answer = none := rfl
@[simp] theorem State.reset_params : State.reset.params = Params.reference := rfl
@[simp] theorem State.reset_moves : State.reset.moves = [] := rfl
@[simp] theorem State.reset_txAnswers : State.reset.txAnswers = [] := rfl
@[simp] theorem State.reset_txCalls : State.reset.txCalls = 0 := rfl
@[simp] theorem State.reset_txPending : State.reset.txPending = none := rfl

/-- With no call outstanding there is none to abandon. -/
theorem State.abandonCall_none {s : State} (h : s.txPending = none) : s.abandonCall = s := by
  simp [State.abandonCall, h]

/-- An abandoned call uses up its answer unread (R260). -/
theorem State.abandonCall_some {s : State} {f : List Byte} (h : s.txPending = some f) : s.abandonCall = s.sent := by
  simp [State.abandonCall, h]

end Sys2Proof.Machine
end

