-- ==== Sys2Proof/Laws/Ops.lean ====
section
/-! SUPPORT. For each shared operation, everything it can answer, said once: the commit of an operation, the transport call,
the delivery of a frame, the host's moves, and the step of a running job. -/

namespace Sys2Proof.Machine

open Host (Outcome)

/-! ### The commit of an operation -/

@[simp] theorem settle_ok {α : Type} (s : State) (a : α) (k : α → State) : s.settle (.ok a) k = .next (k a) := rfl

@[simp] theorem settle_raise {α : Type} (s : State) (e : ErrRec) (k : α → State) :
    s.settle (.error (.raise e)) k = .next (s.raise e) := rfl

@[simp] theorem settle_refuse {α : Type} (s : State) (r : Refusal) (k : α → State) :
    s.settle (.error (.refuse r)) k = .refused r := rfl

/-- A committed operation goes on in one of two ways: with its results written, or with its fault taken. -/
theorem settle_next {α : Type} {s t : State} {x : Except Stop α} {k : α → State} (h : s.settle x k = .next t) :
    (∃ a, x = .ok a ∧ t = k a) ∨ (∃ e, x = .error (.raise e) ∧ t = s.raise e) := by
  match x, h with
  | .ok a, h => exact .inl ⟨a, rfl, (Outcome.next.inj h).symm⟩
  | .error (.raise e), h => exact .inr ⟨e, rfl, (Outcome.next.inj h).symm⟩

/-! ### The transport -/

theorem interpret_accepted (s : State) (f : List Byte) (n : Nat) :
    s.interpret f (.accepted n) =
      if n = f.length then .next { s with txlog := s.txlog ++ [f] }
      else if n < f.length then .next (s.raise (.transportError "short write" s.jpc (some n)))
      else .refused .txProtocol := rfl

/-- What the reading of an answer can go on to: the frame logged, or a TransportError taken (R214). -/
theorem interpret_next {s t : State} {f : List Byte} {r : TxResult} (h : s.interpret f r = .next t) :
    (r = .accepted f.length ∧ t = { s with txlog := s.txlog ++ [f] }) ∨
    (∃ n, n < f.length ∧ r = .accepted n ∧ t = s.raise (.transportError "short write" s.jpc (some n))) ∨
    (∃ reason, r = .transportError reason ∧ t = s.raise (.transportError reason s.jpc none)) := by
  match r, h with
  | .accepted n, h =>
    rw [interpret_accepted] at h
    split at h
    · next hn => exact .inl ⟨by rw [hn], (Outcome.next.inj h).symm⟩
    · split at h
      · next hn => exact .inr (.inl ⟨n, hn, rfl, (Outcome.next.inj h).symm⟩)
      · cases h
  | .transportError reason, h => exact .inr (.inr ⟨reason, rfl, (Outcome.next.inj h).symm⟩)

/-- What EMIT can go on to (R213-R215): an empty frame changes nothing; else one call is made, and its frame is logged or its
TransportError taken. -/
theorem emit_next {s t : State} {f : List Byte} (h : s.emit f = .next t) :
    (f = [] ∧ t = s) ∨
    (f ≠ [] ∧ s.txAnswer f = .accepted f.length ∧ t = { s.sent with txlog := s.txlog ++ [f] }) ∨
    (∃ n, n < f.length ∧ s.txAnswer f = .accepted n ∧
      t = s.sent.raise (.transportError "short write" s.jpc (some n))) ∨
    (∃ reason, f ≠ [] ∧ s.txAnswer f = .transportError reason ∧
      t = s.sent.raise (.transportError reason s.jpc none)) := by
  unfold State.emit at h
  split at h
  · next hf => exact .inl ⟨hf, (Outcome.next.inj h).symm⟩
  · next hf =>
    obtain ⟨hr, rfl⟩ | ⟨n, hn, hr, rfl⟩ | ⟨reason, hr, rfl⟩ := interpret_next h
    · exact .inr (.inl ⟨hf, hr, rfl⟩)
    · exact .inr (.inr (.inl ⟨n, hn, hr, rfl⟩))
    · exact .inr (.inr (.inr ⟨reason, hf, hr, rfl⟩))

@[simp] theorem emit_empty (s : State) : s.emit [] = .next s := rfl

/-- A frame the transport takes whole is logged. -/
theorem emit_accepted {s : State} {f : List Byte} (hf : f ≠ []) (hr : s.txAnswer f = .accepted f.length) :
    s.emit f = .next { s.sent with txlog := s.txlog ++ [f] } := by
  unfold State.emit
  rw [if_neg hf, hr, interpret_accepted, if_pos rfl]
  rfl

/-- Outside a job an encoder operation returns its frame. -/
theorem deliver_outside {s : State} {f : List Byte} (h : s.phase ≠ .run) :
    s.deliver (.ok f) = .next { s with answer := some (.frame f) } := by
  simp [State.deliver, h]

/-- In a running job an encoder operation emits its frame. -/
theorem deliver_running {s : State} {f : List Byte} (h : s.phase = .run) : s.deliver (.ok f) = s.emit f := by
  simp [State.deliver, h]

@[simp] theorem deliver_refuse (s : State) (r : Refusal) : s.deliver (.error (.refuse r)) = .refused r := rfl

/-- What the delivery of a frame can go on to. -/
theorem deliver_next {s t : State} {x : Except Stop (List Byte)} (h : s.deliver x = .next t) :
    (∃ f, x = .ok f ∧ s.phase = .run ∧ s.emit f = .next t) ∨
    (∃ f, x = .ok f ∧ s.phase ≠ .run ∧ t = { s with answer := some (.frame f) }) ∨
    (∃ e, x = .error (.raise e) ∧ t = s.raise e) := by
  match x, h with
  | .ok f, h =>
    by_cases hp : s.phase = .run
    · exact .inl ⟨f, rfl, hp, by rwa [deliver_running hp] at h⟩
    · rw [deliver_outside hp] at h
      exact .inr (.inl ⟨f, rfl, hp, (Outcome.next.inj h).symm⟩)
  | .error (.raise e), h => exact .inr (.inr ⟨e, rfl, (Outcome.next.inj h).symm⟩)

/-! ### The encoder's frames raise nothing -/

theorem alignmentFrame_no_raise (a : Nat) (e : ErrRec) : alignmentFrame a ≠ .error (.raise e) := by
  unfold alignmentFrame; split <;> simp

theorem feedFrame_no_raise (op : Byte) (n : Nat) (e : ErrRec) : feedFrame op n ≠ .error (.raise e) := by
  unfold feedFrame; split <;> simp

theorem bitmapFrame_no_raise (modes : ModeMap) (mode : BitmapMode) (w h : Nat) (p : PackedBitmap) (e : ErrRec) :
    bitmapFrame modes mode w h p ≠ .error (.raise e) := by
  unfold bitmapFrame
  split
  · simp
  · split
    · simp
    · split <;> simp

theorem bitmapOperation_no_raise (s : State) (mode : BitmapMode) (o : BitmapOperands) (e : ErrRec) :
    bitmapOperation s mode o ≠ .error (.raise e) := by
  unfold bitmapOperation
  split
  · exact bitmapFrame_no_raise _ _ _ _ _ _
  · split
    · simp
    · exact bitmapFrame_no_raise _ _ _ _ _ _

/-! ### The step -/

/-- `advance` goes on only from a next state: kept where a fault was taken, its counter moved by one otherwise (R211). -/
theorem advance_next {o : Outcome State Fault Refusal} {t : State} (h : advance o = .next t) :
    ∃ u, o = .next u ∧ ((u.phase = .fault ∧ t = u) ∨ (u.phase ≠ .fault ∧ t = { u with jpc := u.jpc + 1 })) := by
  match o, h with
  | .next u, h =>
    refine ⟨u, rfl, ?_⟩
    change (if u.phase = .fault then Outcome.next u else .next { u with jpc := u.jpc + 1 }) = .next t at h
    split at h
    · next hu => exact .inl ⟨hu, (Outcome.next.inj h).symm⟩
    · next hu => exact .inr ⟨hu, (Outcome.next.inj h).symm⟩

/-- The CORE's step outside RUN changes nothing. -/
theorem coreStep_idle {s : State} (h : s.phase ≠ .run) : coreStep s = .next s := by
  unfold coreStep
  match hp : s.phase, h with
  | .idle, _ => rfl
  | .done, _ => rfl
  | .fault, _ => rfl

/-- The CORE's step at the end of the job (R217). -/
theorem coreStep_end {s : State} (h : s.phase = .run) (hj : s.jpc = s.job.length) :
    coreStep s = .next { s with phase := .done } := by
  simp [coreStep, h, hj]

/-- The CORE's step at an operation of the job (R211). -/
theorem coreStep_op {s : State} {op : JobOp} (h : s.phase = .run) (hop : s.job[s.jpc]? = some op) :
    coreStep s = advance (exec op.toInstr s) := by
  have hlt : s.jpc < s.job.length := (List.getElem?_eq_some_iff.mp hop).1
  have hne : ¬ s.jpc = s.job.length := Nat.ne_of_lt hlt
  unfold coreStep
  rw [h]
  simp only [hne, if_false]
  rw [hop]

/-- Everything the CORE's own step can go on to. -/
theorem coreStep_next {s t : State} (h : coreStep s = .next t) :
    (s.phase ≠ .run ∧ t = s) ∨
    (s.phase = .run ∧ s.jpc = s.job.length ∧ t = { s with phase := .done }) ∨
    (∃ op, s.phase = .run ∧ s.job[s.jpc]? = some op ∧ advance (exec op.toInstr s) = .next t) := by
  by_cases hp : s.phase = .run
  · by_cases hj : s.jpc = s.job.length
    · rw [coreStep_end hp hj] at h
      exact .inr (.inl ⟨hp, hj, (Outcome.next.inj h).symm⟩)
    · match hop : s.job[s.jpc]? with
      | some op =>
        rw [coreStep_op hp hop] at h
        exact .inr (.inr ⟨op, hp, rfl, h⟩)
      | none => simp [coreStep, hp, hj, hop] at h
  · rw [coreStep_idle hp] at h
    exact .inl ⟨hp, (Outcome.next.inj h).symm⟩

theorem step_quiet {s : State} (h : s.moves = []) : step s = coreStep s := by
  simp [step, stepBody, h]

theorem step_move {s : State} {m : HostMove} {rest : List HostMove} (h : s.moves = m :: rest) :
    step s = hostStep m { s with moves := rest } := by
  simp [step, stepBody, h]

/-- One step of a run. -/
theorem run_next {s t : State} (h : step s = .next t) (n : Nat) :
    Host.Core.run Sys2Proof.core (n + 1) s = Host.Core.run Sys2Proof.core n t := by
  have h' : Sys2Proof.core.step s = .next t := h
  simp [Host.Core.run, h']

theorem whenOpen_next {s t : State} {o : Outcome State Fault Refusal} (h : s.whenOpen o = .next t) :
    (s.phase = .idle ∨ s.phase = .done) ∧ o = .next t := by
  unfold State.whenOpen at h
  split at h
  · next hp => exact ⟨hp, h⟩
  · cases h

/-- Everything START can go on to (R36). -/
theorem start_next {s t : State} (h : s.start = .next t) :
    (s.phase = .idle ∨ s.phase = .done) ∧ s.cfgIn.isSome ∧
      t = { s with cfg := s.cfgIn, job := s.jobIn, img := s.imgIn, jpc := 0, err := .none, txlog := [],
                   G := none, M := none, P := none, phase := .run } := by
  unfold State.start at h
  split at h
  · next hp => exact ⟨hp.1, hp.2, (Outcome.next.inj h).symm⟩
  · cases h

/-- An operation's frame depends on the state through P and the parameters alone. -/
theorem frameOf_congr {s t : State} (hP : t.P = s.P) (hp : t.params = s.params) (i : Instr) :
    frameOf t i = frameOf s i := by
  cases i with
  | bitmapBlock mode o => cases o <;> simp [frameOf, bitmapOperation, hP, hp]
  | _ => rfl

/-- The next frame is that of the operation at `jpc`, in a running job only. -/
theorem nextFrame_some {s : State} {f : List Byte} (h : s.nextFrame = some f) :
    s.phase = .run ∧ ∃ op, s.job[s.jpc]? = some op ∧ frameOf s op.toInstr = some f := by
  unfold State.nextFrame at h
  split at h
  · next hp => exact ⟨hp, by simpa [Option.bind_eq_some_iff] using h⟩
  · cases h

theorem nextFrame_op {s : State} {op : JobOp} (hp : s.phase = .run) (hop : s.job[s.jpc]? = some op) :
    s.nextFrame = frameOf s op.toInstr := by
  simp [State.nextFrame, hp, hop]

/-- A move taken off the list leaves the next frame. -/
theorem nextFrame_moves (s : State) (rest : List HostMove) : { s with moves := rest }.nextFrame = s.nextFrame := rfl

/-- An outstanding call is that of a running job's next frame, and changes nothing else (R248). -/
theorem holdCall_next {s t : State} (h : s.holdCall = .next t) :
    ∃ f, f ≠ [] ∧ s.nextFrame = some f ∧ t = { s with txPending := some f } := by
  unfold State.holdCall at h
  split at h
  · next b f hf => exact ⟨b :: f, by simp, hf, (Outcome.next.inj h).symm⟩
  · cases h
  · cases h

/-- Everything a move of the outside can go on to (R36). -/
theorem hostStep_next {m : HostMove} {s t : State} (h : hostStep m s = .next t) :
    (m = .tick ∧ coreStep s = .next t) ∨
    (m = .blockReset ∧ t = s.blockReset) ∨
    (m = .start ∧ s.start = .next t) ∨
    (m = .readStatus ∧ t = { s with answer := some (.status s.phase s.err s.jpc) }) ∨
    (m = .callPending ∧ ∃ f, f ≠ [] ∧ s.nextFrame = some f ∧ t = { s with txPending := some f }) ∨
    ((s.phase = .idle ∨ s.phase = .done) ∧
      ((∃ c, m = .writeCfg c ∧ t = { s with cfgIn := some c }) ∨
       (∃ ops job, m = .writeJob ops ∧ jobOfInstrs? s.params.bitmapModeExtra ops = some job ∧
         t = { s with jobIn := job }) ∨
       (∃ r, m = .writeImg r ∧ t = { s with imgIn := some r }) ∨
       (∃ i, m = .transact i ∧ exec i s = .next t))) := by
  match m, h with
  | .tick, h => exact .inl ⟨rfl, h⟩
  | .blockReset, h => exact .inr (.inl ⟨rfl, (Outcome.next.inj h).symm⟩)
  | .start, h => exact .inr (.inr (.inl ⟨rfl, h⟩))
  | .readStatus, h => exact .inr (.inr (.inr (.inl ⟨rfl, (Outcome.next.inj h).symm⟩)))
  | .callPending, h => exact .inr (.inr (.inr (.inr (.inl ⟨rfl, holdCall_next h⟩))))
  | .writeCfg c, h =>
    obtain ⟨hp, ho⟩ := whenOpen_next h
    exact .inr (.inr (.inr (.inr (.inr ⟨hp, .inl ⟨c, rfl, (Outcome.next.inj ho).symm⟩⟩))))
  | .writeJob ops, h =>
    obtain ⟨hp, ho⟩ := whenOpen_next h
    unfold State.writeJob at ho
    split at ho
    · next job hj => exact .inr (.inr (.inr (.inr (.inr ⟨hp, .inr (.inl ⟨ops, job, rfl, hj, (Outcome.next.inj ho).symm⟩)⟩))))
    · cases ho
  | .writeImg r, h =>
    obtain ⟨hp, ho⟩ := whenOpen_next h
    exact .inr (.inr (.inr (.inr (.inr ⟨hp, .inr (.inr (.inl ⟨r, rfl, (Outcome.next.inj ho).symm⟩))⟩))))
  | .transact i, h =>
    obtain ⟨hp, ho⟩ := whenOpen_next h
    exact .inr (.inr (.inr (.inr (.inr ⟨hp, .inr (.inr (.inr ⟨i, rfl, ho⟩))⟩))))

end Sys2Proof.Machine
end

