-- ==== Sys2Proof/Laws/Memory.lean ====
section
/-! SUPPORT. The canonical form of the raster buffers (`Memory.wf`): reset has it, and each operation that writes a buffer
writes a record in that form (R27, R28, R29). -/

namespace Sys2Proof.Machine

theorem reset_memory_wf : Memory.wf State.reset = true := rfl

/-- `collect` answers one result per element. -/
theorem collect_length {α β : Type} {f : α → Except Stop β} {l : List α} {bs : List β}
    (h : collect f l = .ok bs) : bs.length = l.length := by
  induction l generalizing bs with
  | nil => simp [collect] at h; simp [← h]
  | cons a rest ih =>
    simp only [collect] at h
    split at h
    · cases h
    · split at h
      · cases h
      · next hrest => injection h with h; subst h; simp [ih hrest]

/-- `collect` answers, at each index, the result of `f` there. -/
theorem collect_getElem? {α β : Type} {f : α → Except Stop β} {l : List α} {bs : List β}
    (h : collect f l = .ok bs) {i : Nat} {a : α} (ha : l[i]? = some a) :
    ∃ b, f a = .ok b ∧ bs[i]? = some b := by
  induction l generalizing bs i with
  | nil => simp at ha
  | cons a' rest ih =>
    simp only [collect] at h
    split at h
    · cases h
    · next b hb =>
      split at h
      · cases h
      · next hrest =>
        injection h with h; subst h
        cases i with
        | zero => simp at ha; subst ha; exact ⟨b, hb, rfl⟩
        | succ i => simpa using ih hrest (by simpa using ha)

/-- What RESAMPLE answers: the destination sizes, and as many samples (R138, R142). -/
theorem resample_ok {p : Params} {image : DecodedImage} {m : Nat} {g : GrayscaleRaster}
    (h : resample p image m = .ok g) :
    image.shapeOk = true ∧ g.width = destWidth image.width m ∧ g.height = destHeight image.width image.height m ∧
      g.samples.length = g.width * g.height ∧
      collect (fun i => samplePixel p image m (i % g.width) (i / g.width)) (List.range (g.width * g.height))
        = .ok g.samples := by
  unfold resample at h
  split at h
  · next hok =>
    dsimp only at h
    split at h
    · next samples hs =>
      injection h with h; subst h
      exact ⟨hok, rfl, rfl, by simpa using collect_length hs, hs⟩
    · cases h
  · cases h

/-- One pixel of the scan appends one bit, 0 or 1. -/
theorem ditherPixel_bits (w h : Nat) (sc : Scan) (i : Nat) :
    ∃ b, b ≤ 1 ∧ (ditherPixel w h sc i).bits = sc.bits ++ [b] := by
  refine ⟨_, ?_, rfl⟩
  split <;> simp

/-- The scan after `n + 1` pixels is one pixel more. -/
theorem ditherScan_succ (raster : GrayscaleRaster) (n : Nat) :
    ditherScan raster (n + 1) = ditherPixel raster.width raster.height (ditherScan raster n) n := by
  simp [ditherScan, List.range_succ, List.foldl_append]

theorem ditherScan_bits (raster : GrayscaleRaster) (n : Nat) :
    (ditherScan raster n).bits.length = n ∧ ∀ b ∈ (ditherScan raster n).bits, b ≤ 1 := by
  induction n with
  | zero => simp [ditherScan]
  | succ n ih =>
    obtain ⟨b, hb, hbits⟩ := ditherPixel_bits raster.width raster.height (ditherScan raster n) n
    rw [ditherScan_succ, hbits]
    refine ⟨by simp [ih.1], fun c hc => ?_⟩
    simp only [List.mem_append, List.mem_singleton] at hc
    rcases hc with hc | rfl
    · exact ih.2 c hc
    · exact hb

theorem MonoRaster.ok_iff (m : MonoRaster) :
    m.ok = true ↔ m.bits.length = m.width * m.height ∧ ∀ b ∈ m.bits, b ≤ 1 := by
  simp [MonoRaster.ok]

theorem PackedBitmap.ok_iff (p : PackedBitmap) :
    p.ok = true ↔ p.width % 8 = 0 ∧ p.bytes.length = p.width / 8 * p.height := by
  simp [PackedBitmap.ok]

/-- What DITHER answers: a MonoRaster of the raster's size, in its canonical form (R28, R157). -/
theorem dither_ok {raster : GrayscaleRaster} {m : MonoRaster} (h : dither raster = .ok m) :
    raster.ok = true ∧ m.ok = true ∧
      m = ⟨raster.width, raster.height, (ditherScan raster (raster.width * raster.height)).bits⟩ := by
  unfold dither at h
  split at h
  · next hok =>
    injection h with h; subst h
    exact ⟨hok, (MonoRaster.ok_iff _).2 (ditherScan_bits raster _), rfl⟩
  · cases h

/-- What PACK answers: a PackedBitmap of the raster's size, in its canonical form (R29, R170). -/
theorem pack_ok {m : MonoRaster} {p : PackedBitmap} (h : pack m = .ok p) :
    m.ok = true ∧ m.width % 8 = 0 ∧ p.ok = true ∧ p.width = m.width ∧ p.height = m.height := by
  unfold pack at h
  split at h
  · next hok =>
    split at h
    · cases h
    · next hw =>
      have hw8 : m.width % 8 = 0 := by simpa using hw
      injection h with h; subst h
      exact ⟨hok, hw8, (PackedBitmap.ok_iff _).2 ⟨hw8, by simp⟩, rfl, rfl⟩
  · cases h

/-- PACK's only fault is InvalidDimension, with the raster's width (R172). -/
theorem pack_raise {m : MonoRaster} {e : ErrRec} (h : pack m = .error (.raise e)) :
    m.ok = true ∧ m.width % 8 ≠ 0 ∧ e = .invalidDimension m.width := by
  unfold pack at h
  split at h
  · next hok =>
    split at h
    · next hw => simp at h; exact ⟨hok, hw, h.symm⟩
    · cases h
  · simp at h

/-- What UNPACK answers: a MonoRaster in its canonical form (R28, R173). -/
theorem unpack_ok {p : PackedBitmap} {m : MonoRaster} (h : unpack p = .ok m) :
    p.ok = true ∧ m.ok = true ∧ m.width = p.width ∧ m.height = p.height := by
  unfold unpack at h
  split at h
  · next hok =>
    injection h with h; subst h
    refine ⟨hok, (MonoRaster.ok_iff _).2 ⟨by simp, fun b hb => ?_⟩, rfl, rfl⟩
    simp only [List.mem_map] at hb
    obtain ⟨i, _, rfl⟩ := hb
    unfold unpackBit
    split <;> simp
  · cases h

/-- What the image path answers: its three stages' results (R212). -/
theorem rasterizeImage_ok {p : Params} {image : DecodedImage} {m : Nat}
    {t : GrayscaleRaster × MonoRaster × PackedBitmap} (h : rasterizeImage p image m = .ok t) :
    resample p image m = .ok t.1 ∧ dither t.1 = .ok t.2.1 ∧ pack t.2.1 = .ok t.2.2 := by
  unfold rasterizeImage at h
  split at h
  · cases h
  · next g hg =>
    split at h
    · cases h
    · next mono hm =>
      split at h
      · cases h
      · next bitmap hp => injection h with h; subst h; exact ⟨hg, hm, hp⟩

/-- The canonical form, buffer by buffer. -/
theorem Memory.wf_iff (s : State) :
    Memory.wf s = true ↔
      (∀ g, s.G = some g → g.samples.length = g.width * g.height) ∧ (∀ m, s.M = some m → m.ok = true) ∧
        (∀ p, s.P = some p → p.ok = true) := by
  unfold Memory.wf
  cases s.G <;> cases s.M <;> cases s.P <;> simp [and_assoc]

/-- Writing G with what RESAMPLE answers keeps the canonical form. -/
theorem write_G_keeps_wf {s : State} {p : Params} {image : DecodedImage} {m : Nat} {g : GrayscaleRaster}
    (hs : Memory.wf s = true) (h : resample p image m = .ok g) : Memory.wf { s with G := some g } = true := by
  rw [Memory.wf_iff] at hs ⊢
  refine ⟨fun g' hg => ?_, hs.2.1, hs.2.2⟩
  cases hg
  exact (resample_ok h).2.2.2.1

/-- Writing M with what DITHER answers keeps the canonical form. -/
theorem write_M_keeps_wf {s : State} {raster : GrayscaleRaster} {m : MonoRaster}
    (hs : Memory.wf s = true) (h : dither raster = .ok m) : Memory.wf { s with M := some m } = true := by
  rw [Memory.wf_iff] at hs ⊢
  refine ⟨hs.1, fun m' hm => ?_, hs.2.2⟩
  cases hm
  exact (dither_ok h).2.1

/-- Writing P with what PACK answers keeps the canonical form. -/
theorem write_P_keeps_wf {s : State} {m : MonoRaster} {p : PackedBitmap}
    (hs : Memory.wf s = true) (h : pack m = .ok p) : Memory.wf { s with P := some p } = true := by
  rw [Memory.wf_iff] at hs ⊢
  refine ⟨hs.1, hs.2.1, fun p' hp => ?_⟩
  cases hp
  exact (pack_ok h).2.2.1

/-- RASTERIZE's write of all three buffers has the canonical form. -/
theorem write_GMP_wf {s : State} {p : Params} {image : DecodedImage} {m : Nat}
    {t : GrayscaleRaster × MonoRaster × PackedBitmap} (h : rasterizeImage p image m = .ok t) :
    Memory.wf { s with G := some t.1, M := some t.2.1, P := some t.2.2 } = true := by
  obtain ⟨hg, hm, hp⟩ := rasterizeImage_ok h
  rw [Memory.wf_iff]
  refine ⟨fun g h => ?_, fun m h => ?_, fun p h => ?_⟩ <;> cases h
  · exact (resample_ok hg).2.2.2.1
  · exact (dither_ok hm).2.1
  · exact (pack_ok hp).2.2.1

end Sys2Proof.Machine
end

