-- ==== Sys2Proof/Laws/Exec.lean ====
section
/-! SUPPORT. Everything an operation can go on to, said once for all fifteen: it writes its result, logs its own frame (`frameOf`),
changes nothing (an empty frame), or takes its fault. -/

namespace Sys2Proof.Machine

open Host (Outcome)
open Sys2Proof.Safety (isEncoder)

/-- The endings of an operation that goes on from `s` to `t`. -/
inductive Effect (i : Instr) (s t : State) : Prop where
  /-- a direct transaction returned a value -/
  | answered (a : Answer) (hi : (isEncoder i = true ∧ s.phase ≠ .run) ∨ (∃ px c, i = .normalize px c) ∨
      (∃ r g b, i = .luminance r g b) ∨ ∃ p, i = .unpack p) (h : t = { s with answer := some a })
  /-- RESAMPLE wrote G -/
  | wroteG (image : DecodedImage) (m : Nat) (g : GrayscaleRaster) (hi : i = .resample image m)
      (hg : resample s.params image m = .ok g) (h : t = { s with G := some g })
  /-- DITHER wrote M -/
  | wroteM (src : Source GrayscaleRaster) (g : GrayscaleRaster) (m : MonoRaster) (hi : i = .dither src)
      (hs : grayOperand s src = .ok g) (hm : dither g = .ok m) (h : t = { s with M := some m })
  /-- PACK wrote P -/
  | wroteP (src : Source MonoRaster) (m : MonoRaster) (p : PackedBitmap) (hi : i = .pack src)
      (hs : monoOperand s src = .ok m) (hp : pack m = .ok p) (h : t = { s with P := some p })
  /-- RASTERIZE wrote all three -/
  | rasterized (image : DecodedImage) (c : Cfg) (r : GrayscaleRaster × MonoRaster × PackedBitmap) (hi : i = .rasterize)
      (himg : s.img = some (.ok image)) (hc : s.cfg = some c) (hr : rasterizeImage s.params image c.maxWidth = .ok r)
      (h : t = { s with G := some r.1, M := some r.2.1, P := some r.2.2 })
  /-- an empty frame was not sent -/
  | unsent (hi : frameOf s i = some []) (hp : isEncoder i = true → s.phase = .run) (h : t = s)
  /-- a frame was sent and logged -/
  | logged (f : List Byte) (hi : frameOf s i = some f) (hp : isEncoder i = true → s.phase = .run) (hf : f ≠ [])
      (ha : s.txAnswer f = .accepted f.length) (h : t = { s.sent with txlog := s.txlog ++ [f] })
  /-- PACK raised InvalidDimension -/
  | badWidth (src : Source MonoRaster) (m : MonoRaster) (hi : i = .pack src) (hs : monoOperand s src = .ok m)
      (hok : m.ok = true) (hw : m.width % 8 ≠ 0) (h : t = s.raise (.invalidDimension m.width))
  /-- RASTERIZE raised DecodeError -/
  | undecoded (reason : String) (hi : i = .rasterize) (himg : s.img = some (.decodeError reason))
      (hc : s.cfg.isSome = true) (h : t = s.raise (.decodeError reason))
  /-- a short write -/
  | shortWrite (f : List Byte) (n : Nat) (hi : frameOf s i = some f) (hp : isEncoder i = true → s.phase = .run)
      (hn : n < f.length)
      (ha : s.txAnswer f = .accepted n) (h : t = s.sent.raise (.transportError "short write" s.jpc (some n)))
  /-- the transport failed -/
  | txFailed (f : List Byte) (reason : String) (hi : frameOf s i = some f) (hp : isEncoder i = true → s.phase = .run)
      (hf : f ≠ [])
      (ha : s.txAnswer f = .transportError reason) (h : t = s.sent.raise (.transportError reason s.jpc none))

theorem emit_effect {i : Instr} {s t : State} {f : List Byte} (hi : frameOf s i = some f)
    (hp : isEncoder i = true → s.phase = .run) (h : s.emit f = .next t) : Effect i s t := by
  obtain ⟨rfl, rfl⟩ | ⟨hf, ha, rfl⟩ | ⟨n, hn, ha, rfl⟩ | ⟨reason, hf, ha, rfl⟩ := emit_next h
  · exact .unsent hi hp rfl
  · exact .logged f hi hp hf ha rfl
  · exact .shortWrite f n hi hp hn ha rfl
  · exact .txFailed f reason hi hp hf ha rfl

theorem deliver_effect {i : Instr} {s t : State} {x : Except Stop (List Byte)} (hi : isEncoder i = true)
    (hf : frameOf s i = x.toOption) (hx : ∀ e, x ≠ .error (.raise e)) (h : s.deliver x = .next t) : Effect i s t := by
  obtain ⟨f, rfl, hp, he⟩ | ⟨f, -, hp, rfl⟩ | ⟨e, rfl, -⟩ := deliver_next h
  · exact emit_effect hf (fun _ => hp) he
  · exact .answered _ (.inl ⟨hi, hp⟩) rfl
  · exact absurd rfl (hx e)

/-- The operations with a frame are EMIT and the seven encoder operations. -/
theorem frameOf_some {i : Instr} {s : State} {f : List Byte} (h : frameOf s i = some f) :
    i = .emit f ∨ isEncoder i = true := by
  cases i <;> simp_all [frameOf, isEncoder]

/-- A job operation with a frame emits it when it runs (R211). -/
theorem exec_frame {s : State} {op : JobOp} {f : List Byte} (hp : s.phase = .run)
    (h : frameOf s op.toInstr = some f) : exec op.toInstr s = s.emit f := by
  have key : ∀ x : Except Stop (List Byte), x.toOption = some f → s.deliver x = s.emit f := by
    intro x hx
    cases x with
    | ok g => cases hx; exact deliver_running hp
    | error e => cases hx
  cases op with
  | rasterize => cases h
  | reset => exact key (.ok _) h
  | setTextStyle a b c d => exact key (.ok _) h
  | writeText t => exact key (.ok _) h
  | setAlignment a => exact key _ h
  | feedLines a => exact key _ h
  | feedDots a => exact key _ h
  | bitmapBlock a => exact key _ h

theorem normalize_no_raise (px : List Byte) (c : Nat) (e : ErrRec) : normalize px c ≠ .error (.raise e) := by
  unfold normalize
  split
  · split <;> simp
  · simp

theorem luminance_no_raise (p : Params) (r g b : Nat) (e : ErrRec) : luminance p r g b ≠ .error (.raise e) := by
  unfold luminance; split <;> simp

theorem samplePixel_no_raise (p : Params) (image : DecodedImage) (m x y : Nat) (e : ErrRec) :
    samplePixel p image m x y ≠ .error (.raise e) := by
  unfold samplePixel
  dsimp only
  split
  · exact luminance_no_raise _ _ _ _ _
  · next e' h => intro hc; cases hc; exact normalize_no_raise _ _ _ h

theorem collect_no_raise {α β : Type} {f : α → Except Stop β} (hf : ∀ a e, f a ≠ .error (.raise e)) (l : List α)
    (e : ErrRec) : collect f l ≠ .error (.raise e) := by
  induction l with
  | nil => simp [collect]
  | cons a rest ih =>
    simp only [collect]
    split
    · next e' h => intro hc; cases hc; exact hf _ _ h
    · split
      · next e' h => intro hc; cases hc; exact ih h
      · simp

theorem resample_no_raise (p : Params) (image : DecodedImage) (m : Nat) (e : ErrRec) :
    resample p image m ≠ .error (.raise e) := by
  unfold resample
  split
  · dsimp only
    split
    · simp
    · next e' h => intro hc; cases hc; exact collect_no_raise (fun _ => samplePixel_no_raise _ _ _ _ _) _ _ h
  · simp

theorem dither_no_raise (raster : GrayscaleRaster) (e : ErrRec) : dither raster ≠ .error (.raise e) := by
  unfold dither; split <;> simp

theorem unpack_no_raise (p : PackedBitmap) (e : ErrRec) : unpack p ≠ .error (.raise e) := by
  unfold unpack; split <;> simp

theorem grayOperand_no_raise (s : State) (src : Source GrayscaleRaster) (e : ErrRec) :
    grayOperand s src ≠ .error (.raise e) := by
  unfold grayOperand
  split
  · simp
  · split <;> simp

theorem monoOperand_no_raise (s : State) (src : Source MonoRaster) (e : ErrRec) :
    monoOperand s src ≠ .error (.raise e) := by
  unfold monoOperand
  split
  · simp
  · split <;> simp

theorem bind_ok {α β : Type} {x : Except Stop α} {k : α → Except Stop β} {b : β} (h : x.bind k = .ok b) :
    ∃ a, x = .ok a ∧ k a = .ok b := by
  match x, h with
  | .ok a, h => exact ⟨a, rfl, h⟩

theorem bind_raise {α β : Type} {x : Except Stop α} {k : α → Except Stop β} {e : ErrRec}
    (h : x.bind k = .error (.raise e)) : x = .error (.raise e) ∨ ∃ a, x = .ok a ∧ k a = .error (.raise e) := by
  match x, h with
  | .ok a, h => exact .inr ⟨a, rfl, h⟩
  | .error (.raise e'), h => exact .inl (by simpa [Except.bind] using h)

/-- The widths of RESAMPLE's rasters are multiples of 8 (R132, R142), so RASTERIZE cannot raise InvalidDimension (R172). -/
theorem destWidth_mod (w m : Nat) : destWidth w m % 8 = 0 := by
  unfold destWidth
  dsimp only
  split <;> omega

theorem rasterizeImage_no_raise (p : Params) (image : DecodedImage) (m : Nat) (e : ErrRec) :
    rasterizeImage p image m ≠ .error (.raise e) := by
  unfold rasterizeImage
  split
  · next e' h => intro hc; cases hc; exact resample_no_raise _ _ _ _ h
  · next g hg =>
    split
    · next e' h => intro hc; cases hc; exact dither_no_raise _ _ h
    · next mono hm =>
      split
      · next e' h =>
        intro hc; cases hc
        obtain ⟨-, hw, -⟩ := pack_raise h
        obtain ⟨-, -, rfl⟩ := dither_ok hm
        exact hw (by rw [(resample_ok hg).2.1]; exact destWidth_mod _ _)
      · simp

/-- Everything an operation can go on to. -/
theorem exec_effect {i : Instr} {s t : State} (h : exec i s = .next t) : Effect i s t := by
  match i, h with
  | .normalize px c, h =>
    obtain ⟨a, -, rfl⟩ | ⟨e, he, -⟩ := settle_next h
    · exact .answered _ (.inr (.inl ⟨px, c, rfl⟩)) rfl
    · exact absurd he (normalize_no_raise _ _ _)
  | .luminance r g b, h =>
    obtain ⟨a, -, rfl⟩ | ⟨e, he, -⟩ := settle_next h
    · exact .answered _ (.inr (.inr (.inl ⟨r, g, b, rfl⟩))) rfl
    · exact absurd he (luminance_no_raise _ _ _ _ _)
  | .resample image m, h =>
    obtain ⟨g, hg, rfl⟩ | ⟨e, he, -⟩ := settle_next h
    · exact .wroteG image m g rfl hg rfl
    · exact absurd he (resample_no_raise _ _ _ _)
  | .dither src, h =>
    obtain ⟨m, hm, rfl⟩ | ⟨e, he, -⟩ := settle_next h
    · obtain ⟨g, hs, hd⟩ := bind_ok hm
      exact .wroteM src g m rfl hs hd rfl
    · obtain he | ⟨g, -, hd⟩ := bind_raise he
      · exact absurd he (grayOperand_no_raise _ _ _)
      · exact absurd hd (dither_no_raise _ _)
  | .pack src, h =>
    obtain ⟨p, hp, rfl⟩ | ⟨e, he, rfl⟩ := settle_next h
    · obtain ⟨m, hs, hk⟩ := bind_ok hp
      exact .wroteP src m p rfl hs hk rfl
    · obtain he | ⟨m, hs, hk⟩ := bind_raise he
      · exact absurd he (monoOperand_no_raise _ _ _)
      · obtain ⟨hok, hw, rfl⟩ := pack_raise hk
        exact .badWidth src m rfl hs hok hw rfl
  | .unpack p, h =>
    obtain ⟨m, -, rfl⟩ | ⟨e, he, -⟩ := settle_next h
    · exact .answered _ (.inr (.inr (.inr ⟨p, rfl⟩))) rfl
    · exact absurd he (unpack_no_raise _ _)
  | .reset, h => exact deliver_effect (x := .ok resetFrame) rfl rfl (by simp) h
  | .setAlignment a, h => exact deliver_effect rfl rfl (alignmentFrame_no_raise a) h
  | .setTextStyle b u dw dh, h => exact deliver_effect (x := .ok (styleFrame b u dw dh)) rfl rfl (by simp) h
  | .feedLines n, h => exact deliver_effect rfl rfl (feedFrame_no_raise _ n) h
  | .feedDots n, h => exact deliver_effect rfl rfl (feedFrame_no_raise _ n) h
  | .bitmapBlock mode o, h => exact deliver_effect rfl rfl (bitmapOperation_no_raise s mode o) h
  | .writeText text, h => exact deliver_effect (x := .ok text) rfl rfl (by simp) h
  | .rasterize, h =>
    obtain ⟨r, hr, rfl⟩ | ⟨e, he, rfl⟩ := settle_next h
    · unfold rasterize at hr
      split at hr <;> try cases hr
      next image c himg hc => exact .rasterized image c r rfl himg hc hr rfl
    · unfold rasterize at he
      split at he
      · simp at he
      · simp at he
      · next reason c himg hc =>
        simp at he; subst he
        exact .undecoded reason rfl himg (by simp [hc]) rfl
      · exact absurd he (rasterizeImage_no_raise _ _ _ _)
  | .emit f, h => exact emit_effect rfl (by simp [isEncoder]) h

end Sys2Proof.Machine
end

