-- ==== Sys2Proof/Laws/PerInstr.lean ====
section
/-! SUPPORT. One family of statements about every operation as syntax: which operations have a wire form. -/

namespace Sys2Proof.Laws.WireForm

/-- The operations of R80's formats, BITMAP_BLOCK with its payload given. -/
def hasWireForm : Instr → Bool
  | .normalize _ _ => false
  | .luminance _ _ _ => false
  | .resample _ _ => false
  | .dither _ => false
  | .pack _ => false
  | .unpack _ => false
  | .reset => true
  | .setAlignment _ => true
  | .setTextStyle _ _ _ _ => true
  | .feedLines _ => true
  | .feedDots _ => true
  | .bitmapBlock _ .fromP => false
  | .bitmapBlock _ (.given _ _ _) => true
  | .writeText _ => true
  | .rasterize => false
  | .emit _ => false

/-- The encoder writes exactly the well-formed operations that have a wire form (R80, R91, R94). -/
def Statement (i : Instr) : Prop := ∀ modes, (encode modes i).isSome = (i.wf modes && hasWireForm i)

theorem byteOperand_isSome (n : Nat) : (byteOperand? n).isSome = decide (n < 256) := by
  unfold byteOperand?; split <;> simp [*]

theorem normalize (px : List Byte) (channels : Nat) : Statement (.normalize px channels) := by
  intro modes; simp [encode, hasWireForm]
theorem luminance (r g b : Nat) : Statement (.luminance r g b) := by intro modes; simp [encode, hasWireForm]
theorem resample (image : DecodedImage) (m : Nat) : Statement (.resample image m) := by
  intro modes; simp [encode, hasWireForm]
theorem dither (raster : Source GrayscaleRaster) : Statement (.dither raster) := by
  intro modes; simp [encode, hasWireForm]
theorem pack (raster : Source MonoRaster) : Statement (.pack raster) := by intro modes; simp [encode, hasWireForm]
theorem unpack (p : PackedBitmap) : Statement (.unpack p) := by intro modes; simp [encode, hasWireForm]
theorem reset : Statement .reset := fun _ => rfl
theorem setAlignment (a : Nat) : Statement (.setAlignment a) := by
  intro modes; simp [encode, hasWireForm, Instr.wf]
theorem setTextStyle (b u dw dh : Bool) : Statement (.setTextStyle b u dw dh) := fun _ => rfl
theorem feedLines (n : Nat) : Statement (.feedLines n) := by
  intro modes; simp [encode, hasWireForm, Instr.wf, byteOperand_isSome]
theorem feedDots (n : Nat) : Statement (.feedDots n) := by
  intro modes; simp [encode, hasWireForm, Instr.wf, byteOperand_isSome]
theorem bitmapBlock (mode : BitmapMode) (operands : BitmapOperands) : Statement (.bitmapBlock mode operands) := by
  intro modes
  cases operands with
  | fromP => simp [encode, hasWireForm]
  | given w h p =>
    simp only [encode, hasWireForm, Instr.wf, BitmapOperands.wf, Bool.and_true]
    split <;> simp_all
theorem writeText (text : List Byte) : Statement (.writeText text) := fun _ => rfl
theorem rasterize : Statement .rasterize := fun _ => rfl
theorem emit (f : List Byte) : Statement (.emit f) := fun _ => rfl

end Sys2Proof.Laws.WireForm
end

