-- ==== Sys2Proof/Machine/JobSyntax.lean ====
section
/-! DEFINITION. The job notation of R92 and the macros of R93, read from text: what the host writes to port JOB. A text that
spells no operation is refused with REF_OPERAND (R94; log entry 10). -/

namespace Sys2Proof.Machine

/-- The words of a job line. -/
inductive Token where
  | word (s : List Char)
  | text (s : List Byte)
  | comma | lpar | rpar
  deriving DecidableEq, Repr

/-- Where the reading of a line stands: between words, in a word, in a quoted text, after its backslash, after `\x`, after
`\x` and one digit, after the closing quote. The accumulated characters and bytes are kept last first. -/
inductive LexMode where
  | between
  | inWord (acc : List Char)
  | inText (acc : List Byte)
  | escape (acc : List Byte)
  | hex1 (acc : List Byte)
  | hex2 (acc : List Byte) (hi : Nat)
  deriving DecidableEq, Repr

/-- The value of a hexadecimal digit. -/
def hexDigit? (c : Char) : Option Nat :=
  let n := c.toNat
  if 48 ≤ n ∧ n ≤ 57 then some (n - 48)
  else if 97 ≤ n ∧ n ≤ 102 then some (n - 87)
  else if 65 ≤ n ∧ n ≤ 70 then some (n - 55)
  else none

/-- A word's characters: letters, digits and the underscore. -/
def isWordChar (c : Char) : Bool :=
  let n := c.toNat
  (decide (48 ≤ n) && decide (n ≤ 57)) || (decide (65 ≤ n) && decide (n ≤ 90))
    || (decide (97 ≤ n) && decide (n ≤ 122)) || decide (n = 95)

/-- The tokens of one line, `;` starting a comment (R92). `none` where the line is no job syntax. Inside a quoted text a `;` is
a text byte, an ASCII character stands for its code, and a character outside ASCII, for which the spec gives no byte (N19), spells
no line: DESIGN CHOICE (log entry 10). -/
def lexLine : List Char → LexMode → Option (List Token)
  | [], .between => some []
  | [], .inWord acc => some [.word acc.reverse]
  | [], .inText _ => none
  | [], .escape _ => none
  | [], .hex1 _ => none
  | [], .hex2 _ _ => none
  | c :: rest, .between =>
    if c = ';' then some []
    else if c = ' ' ∨ c = '\t' ∨ c = '\r' then lexLine rest .between
    else if c = ',' then (lexLine rest .between).map (Token.comma :: ·)
    else if c = '(' then (lexLine rest .between).map (Token.lpar :: ·)
    else if c = ')' then (lexLine rest .between).map (Token.rpar :: ·)
    else if c = '"' then lexLine rest (.inText [])
    else if isWordChar c then lexLine rest (.inWord [c])
    else none
  | c :: rest, .inWord acc =>
    if isWordChar c then lexLine rest (.inWord (c :: acc))
    else if c = ';' then some [.word acc.reverse]
    else if c = ' ' ∨ c = '\t' ∨ c = '\r' then (lexLine rest .between).map (Token.word acc.reverse :: ·)
    else if c = ',' then (lexLine rest .between).map (fun ts => Token.word acc.reverse :: .comma :: ts)
    else if c = '(' then (lexLine rest .between).map (fun ts => Token.word acc.reverse :: .lpar :: ts)
    else if c = ')' then (lexLine rest .between).map (fun ts => Token.word acc.reverse :: .rpar :: ts)
    else none
  | c :: rest, .inText acc =>
    if c = '"' then (lexLine rest .between).map (Token.text acc.reverse :: ·)
    else if c = '\\' then lexLine rest (.escape acc)
    else if c.toNat < 128 then lexLine rest (.inText (BitVec.ofNat 8 c.toNat :: acc))
    else none
  | c :: rest, .escape acc =>
    if c = 'n' then lexLine rest (.inText (0x0a#8 :: acc))
    else if c = 'x' then lexLine rest (.hex1 acc)
    else if c = '\\' ∨ c = '"' then lexLine rest (.inText (BitVec.ofNat 8 c.toNat :: acc))
    else none
  | c :: rest, .hex1 acc =>
    match hexDigit? c with
    | some d => lexLine rest (.hex2 acc d)
    | none => none
  | c :: rest, .hex2 acc hi =>
    match hexDigit? c with
    | some d => lexLine rest (.inText (BitVec.ofNat 8 (16 * hi + d) :: acc))
    | none => none

/-- A decimal number. -/
def decimal? : List Char → Option Nat → Option Nat
  | [], acc => acc
  | c :: rest, acc =>
    if 48 ≤ c.toNat ∧ c.toNat ≤ 57 then decimal? rest (some (acc.getD 0 * 10 + (c.toNat - 48))) else none

/-- A hexadecimal number. -/
def hexadecimal? : List Char → Option Nat → Option Nat
  | [], acc => acc
  | c :: rest, acc =>
    match hexDigit? c with
    | some d => hexadecimal? rest (some (acc.getD 0 * 16 + d))
    | none => none

/-- A number operand, decimal or 0xNN (R92). -/
def number? : List Char → Option Nat
  | '0' :: 'x' :: rest => hexadecimal? rest none
  | cs => decimal? cs none

/-- An alignment's name (R92, R182). -/
def alignmentName? (w : List Char) : Option Alignment :=
  if w = "LEFT".toList then some .left
  else if w = "CENTER".toList then some .center
  else if w = "RIGHT".toList then some .right
  else none

/-- A bitmap mode's name (R92, R189): NORMAL, or a name whose entry in `BITMAP_MODE_EXTRA` is looked up when the job is
written. -/
def modeName (w : List Char) : BitmapMode :=
  if w = "NORMAL".toList then .normal else .extra (String.ofList w)

/-- The style flags a list of words names; "listed flags are true" (R92). They are taken in any order, and a repeated flag counts
once: DESIGN CHOICE (log entry 10). -/
def styleWords : List Token → Style → Option Style
  | [], st => some st
  | .word w :: rest, st =>
    if w = "bold".toList then styleWords rest { st with bold := true }
    else if w = "underline".toList then styleWords rest { st with underline := true }
    else if w = "double_width".toList then styleWords rest { st with doubleWidth := true }
    else if w = "double_height".toList then styleWords rest { st with doubleHeight := true }
    else none
  | .text _ :: _, _ => none
  | .comma :: _, _ => none
  | .lpar :: _, _ => none
  | .rpar :: _, _ => none

/-- No style flag. -/
def Style.plain : Style := ⟨false, false, false, false⟩

/-- Text written as a list of byte numbers (R92). -/
def textNumbers : List Token → Option (List Byte)
  | [] => some []
  | .word w :: rest =>
    match number? w, textNumbers rest with
    | some n, some bs => if n < 256 then some (BitVec.ofNat 8 n :: bs) else none
    | _, _ => none
  | .text _ :: _ => none
  | .comma :: _ => none
  | .lpar :: _ => none
  | .rpar :: _ => none

/-- A text operand: quoted, or a list of byte numbers (R92). -/
def textOperand? : List Token → Option (List Byte)
  | [] => none
  | [.text s] => some s
  | ts => textNumbers ts

/-- The feed operation a mnemonic and a number spell. A count outside 0..255 is spelt, and refused when the job is
written (R94). -/
def feedInstr? (w : List Char) (n : Nat) : Option Instr :=
  if w = "FEED_LINES".toList then some (.feedLines n)
  else if w = "FEED_DOTS".toList then some (.feedDots n)
  else none

/-- The tokens up to the closing parenthesis of a style operand, its commas dropped, and the tokens after it (R93). -/
def splitParens : List Token → Option (List Token × List Token)
  | [] => none
  | .rpar :: rest => some ([], rest)
  | .comma :: rest => splitParens rest
  | t :: rest => (splitParens rest).map (fun p => (t :: p.1, p.2))

/-- The tokens before the next comma, and the tokens from it on. -/
def splitComma : List Token → Option (List Token × List Token)
  | [] => none
  | .comma :: rest => some ([], .comma :: rest)
  | t :: rest => (splitComma rest).map (fun p => (t :: p.1, p.2))

/-- The operations of a macro's tail `feed` after its content operand: `, FEED_LINES n` or `, FEED_DOTS n` (R93). -/
def macroFeed? : List Token → Option Instr
  | [.comma, .word w, .word n] =>
    match number? n with
    | some v => feedInstr? w v
    | none => none
  | _ => none

/-- The expansion of a macro line from its operands on (R219, R220): `a, (flags), content, feed`. PRINT_TEXT's `text` is taken in
both of WRITE_TEXT's forms, quoted and as a list of byte numbers: DESIGN CHOICE (log entry 10). -/
def macroLine? (image : Bool) : List Token → Option (List Instr)
  | .word a :: .comma :: .lpar :: rest =>
    match alignmentName? a, splitParens rest with
    | some al, some (flags, .comma :: rest) =>
      match styleWords flags Style.plain, splitComma rest with
      | some st, some (content, tail) =>
        let align : Instr := .setAlignment al.ordinal.toNat
        let style : Instr := st.op.toInstr
        match image, content, macroFeed? tail with
        | true, [.word m], some feed =>
          some [.rasterize, .reset, align, style, .bitmapBlock (modeName m) .fromP, feed, .reset]
        | false, content, some feed =>
          (textOperand? content).map (fun s => [.reset, align, style, .writeText s, feed, .reset])
        | _, _, _ => none
      | _, _ => none
    | _, _ => none
  | _ => none

/-- The operations one line spells (R92, R93): none for an empty line, one for an operation, six or seven for a macro. -/
def lineInstrs? : List Token → Option (List Instr)
  | [] => some []
  | .word m :: args =>
    if m = "RASTERIZE".toList then (if args = [] then some [.rasterize] else none)
    else if m = "RESET".toList then (if args = [] then some [.reset] else none)
    else if m = "SET_ALIGNMENT".toList then
      match args with
      | [.word a] => (alignmentName? a).map (fun al => [.setAlignment al.ordinal.toNat])
      | _ => none
    else if m = "SET_TEXT_STYLE".toList then
      (styleWords args Style.plain).map
        (fun st => [.setTextStyle st.bold st.underline st.doubleWidth st.doubleHeight])
    else if m = "BITMAP_BLOCK".toList then
      match args with
      | [.word mode] => some [.bitmapBlock (modeName mode) .fromP]
      | _ => none
    else if m = "WRITE_TEXT".toList then
      (textOperand? args).map (fun s => [.writeText s])
    else if m = "PRINT_IMAGE".toList then macroLine? true args
    else if m = "PRINT_TEXT".toList then macroLine? false args
    else
      match args with
      | [.word n] =>
        match number? n with
        | some v => (feedInstr? m v).map (fun i => [i])
        | none => none
      | _ => none
  | .text _ :: _ => none
  | .comma :: _ => none
  | .lpar :: _ => none
  | .rpar :: _ => none

/-- A line without the operation index that the listings of 95_test_vectors.md put before each operation and R92 does not show; the
number is not compared with the operation's place: DESIGN CHOICE (log entry 10). -/
def dropIndex : List Token → List Token
  | .word w :: t :: rest => if (decimal? w none).isSome then t :: rest else .word w :: t :: rest
  | ts => ts

/-- The lines of a text. -/
def splitLines : List Char → List Char → List (List Char)
  | [], acc => [acc.reverse]
  | c :: rest, acc => if c = '\n' then acc.reverse :: splitLines rest [] else splitLines rest (c :: acc)

/-- The operations a list of lines spells. -/
def linesInstrs : List (List Char) → Except Refusal (List Instr)
  | [] => .ok []
  | l :: rest =>
    match (lexLine l .between).bind (fun ts => lineInstrs? (dropIndex ts)), linesInstrs rest with
    | some is, .ok more => .ok (is ++ more)
    | none, _ => .error .operand
    | some _, .error r => .error r

/-- The operations a job text spells (R92, R93). -/
def parseJob (text : String) : Except Refusal (List Instr) := linesInstrs (splitLines text.toList [])

/-- The host's write of port JOB from a job text (R36, R92). -/
def jobTextMove (text : String) : Except Refusal HostMove := (parseJob text).map HostMove.writeJob

end Sys2Proof.Machine
end

