-- ==== Sys2Proof/Tests/Slice0.lean ====
section
/-! SUPPORT. Tests: words written out from 30_encoding.md, ill-formed terms for each check of WellFormed, and the vectors of
95_test_vectors.md (named in each comment), one step or one operation each. -/

namespace Sys2Proof.Tests

open Sys2Proof Sys2Proof.Machine

/-! ### Helpers -/

/-- A field of the next state, when there is one. -/
def nextField {α : Type} (f : State → α) : Host.Outcome State Fault Refusal → Option α
  | .next s => some (f s)
  | .fault _ => none
  | .refused _ => none

/-- The reason of a refusal. -/
def refusal? : Host.Outcome State Fault Refusal → Option Refusal
  | .next _ => none
  | .fault _ => none
  | .refused r => some r

/-- A running job with the transport's next answers, at operation 0. -/
def running (job : List JobOp) (answers : List TxResult) : State :=
  { State.reset with phase := .run, cfg := some ⟨8⟩, job := job, txAnswers := answers }

/-- A running `RASTERIZE` on an image. -/
def rasterizing (maxWidth : Nat) (image : DecodedImage) : State :=
  { State.reset with phase := .run, cfg := some ⟨maxWidth⟩, job := [.rasterize], img := some (.ok image) }

/-- A packed bitmap of one byte. -/
def oneByte : PackedBitmap := ⟨8, 1, [0xa4#8]⟩

/-! ### WellFormed: one ill-formed term for each check -/

theorem test_wf_refuses_pixel_length : Instr.wf [] (.normalize [0x0a#8, 0x14#8] 3) = false := by decide
theorem test_wf_refuses_channels : Instr.wf [] (.normalize [1#8, 2#8, 3#8, 4#8, 5#8] 5) = false := by decide
theorem test_wf_refuses_luminance_operand : Instr.wf [] (.luminance 256 0 0) = false := by decide
theorem test_wf_refuses_zero_width : Instr.wf [] (.resample ⟨0, 1, 1, []⟩ 8) = false := by decide
theorem test_wf_refuses_short_pixels : Instr.wf [] (.resample ⟨2, 2, 3, List.replicate 11 0#8⟩ 8) = false := by decide
theorem test_wf_refuses_sample_range :
    Instr.wf [] (.dither (.given ⟨2, 1, [F64.half, 0x3ff8000000000000#64]⟩)) = false := by decide +kernel
theorem test_wf_refuses_bit_value : Instr.wf [] (.pack (.given ⟨8, 1, [2, 0, 0, 0, 0, 0, 0, 0]⟩)) = false := by decide
theorem test_wf_refuses_unpack_width : Instr.wf [] (.unpack ⟨12, 1, [0#8]⟩) = false := by decide
theorem test_wf_refuses_alignment : Instr.wf [] (.setAlignment 3) = false := by decide
theorem test_wf_refuses_feed_count : Instr.wf [] (.feedLines 256) = false ∧ Instr.wf [] (.feedDots 256) = false := by decide
theorem test_wf_refuses_unnamed_mode : Instr.wf [] (.bitmapBlock (.extra "DOUBLE") .fromP) = false := by decide
theorem test_wf_refuses_bitmap_mismatch : Instr.wf [] (.bitmapBlock .normal (.given 16 1 oneByte)) = false := by decide
theorem test_wf_refuses_header_range : headerInRange 524288 1 = false ∧ headerInRange 8 65536 = false := by decide

/-! ### Decode: words written out from 30_encoding.md -/

-- R81: reset = 1b 40
theorem test_decode_reset : decode [] [0x1b#8, 0x40#8] = .ok (.reset, []) := by decide
-- R82: 1b 61 02 is RIGHT
theorem test_decode_alignment : decode [] [0x1b#8, 0x61#8, 0x02#8] = .ok (.setAlignment 2, []) := by decide
-- R83: underline and bold are 0x80 and 0x08
theorem test_decode_style :
    decode [] [0x1b#8, 0x21#8, 0x88#8] = .ok (.setTextStyle true true false false, []) := by decide
theorem test_decode_style_double_height :
    decode [] [0x1b#8, 0x21#8, 0x10#8] = .ok (.setTextStyle false false false true, []) := by decide
-- R84
theorem test_decode_feed_lines : decode [] [0x1b#8, 0x64#8, 0x03#8] = .ok (.feedLines 3, []) := by decide
theorem test_decode_feed_dots : decode [] [0x1b#8, 0x4a#8, 0x18#8] = .ok (.feedDots 24, []) := by decide
-- R86: bitmap_block(NORMAL, 16, 2, packed)
theorem test_decode_bitmap :
    decode [] [0x1d#8, 0x76#8, 0x30#8, 0#8, 2#8, 0#8, 2#8, 0#8, 0xd4#8, 0#8, 1#8, 0x5b#8, 0x1b#8]
      = .ok (.bitmapBlock .normal (.given 16 2 ⟨16, 2, [0xd4#8, 0#8, 1#8, 0x5b#8]⟩), [0x1b#8]) := by decide
-- R87: a byte that starts no command is one text byte
theorem test_decode_text : decode [] [0x4f#8, 0x4b#8] = .ok (.writeText [0x4f#8], [0x4b#8]) := by decide
theorem test_decode_escape_in_text : decode [] [0x1b#8, 0x45#8] = .ok (.writeText [0x1b#8], [0x45#8]) := by decide
-- R89: never produced
theorem test_decode_reserved_alignment : decode [] [0x1b#8, 0x61#8, 0x03#8] = .error .reservedAlignment := by decide
theorem test_decode_reserved_style : decode [] [0x1b#8, 0x21#8, 0x40#8] = .error .reservedStyle := by decide
theorem test_decode_reserved_mode :
    decode [] [0x1d#8, 0x76#8, 0x30#8, 1#8, 0#8, 0#8, 0#8, 0#8] = .error .reservedMode := by decide
theorem test_decode_truncated : decode [] [0x1b#8, 0x64#8] = .error .truncated := by decide
-- the table's words: RESET 1b40, SET_ALIGNMENT 1b6102, BITMAP_BLOCK 1d76300000000000
theorem test_table_words :
    decodeTableWord 16 0x1b40 = some .reset ∧ decodeTableWord 24 0x1b6102 = some (.setAlignment 2)
      ∧ decodeTableWord 64 0x1d76300000000000 = some (.bitmapBlock .normal (.given 0 0 ⟨0, 0, []⟩)) := by decide
-- the encoder writes R81's frame
theorem test_encode_bitmap :
    encode [] (.bitmapBlock .normal (.given 8 1 oneByte))
      = some [0x1d#8, 0x76#8, 0x30#8, 0#8, 1#8, 0#8, 1#8, 0#8, 0xa4#8] := by decide

/-! ### LuminanceConverter -/

-- V-LUM-3
theorem test_normalize_gray_alpha :
    nextField State.answer (exec (.normalize [0x40#8, 0x00#8] 2) State.reset)
      = some (some (.rgb 0x40#8 0x40#8 0x40#8)) := by decide
theorem test_normalize_rgba :
    nextField State.answer (exec (.normalize [0x0a#8, 0x14#8, 0x1e#8, 0x00#8] 4) State.reset)
      = some (some (.rgb 0x0a#8 0x14#8 0x1e#8)) := by decide
-- V-LUM-1: (255,0,0), and (100,150,200) where naive binary64 evaluation is one step up
theorem test_luminance_red :
    nextField State.answer (exec (.luminance 255 0 0) State.reset)
      = some (some (.intensity 0x3fe27c26dae383f4#64)) := by decide +kernel
theorem test_luminance_blueish :
    nextField State.answer (exec (.luminance 100 150 200) State.reset)
      = some (some (.intensity 0x3fe86cd0586489bf#64)) := by decide +kernel
-- V-LUM-1 and V-LUM-2: endpoints, the threshold, and Y1000 = 111
theorem test_lumPow_vectors :
    (lumPowRef 0, lumPowRef 255000, lumPowRef 55497, lumPowRef 55498, lumPowRef 111)
      = (F64.zero, F64.one, 0x3fdffff5b8aec783#64, 0x3fe0000372ed5dcb#64, 0x3f9e5f3dfae5bb11#64) := by decide +kernel

/-! ### Resampler -/

-- V-RES-1: sizes (3,7,2), (49,49,16), (1000,3,0), and the source columns of (20,10,5)
theorem test_resample_sizes :
    (destWidth 3 2, destHeight 3 7 2, destWidth 49 16, destHeight 49 49 16, destWidth 1000 0, destHeight 1000 3 0)
      = (8, 4, 16, 16, 8, 0) := by decide
theorem test_resample_columns :
    (List.range 8).map (srcX 20 5) = [0, 4, 8, 12, 16, 19, 19, 19] ∧ (List.range 4).map (srcY 3 7 2) = [0, 1, 3, 4] := by
  decide
-- R134, R140: a 2-pixel row repeats its last column
theorem test_resample_repeats_last_column :
    nextField (fun s => s.G.map (fun g => g.samples)) (exec (.resample ⟨2, 1, 1, [0#8, 255#8]⟩ 8) State.reset)
      = some (some [F64.zero, F64.one, F64.one, F64.one, F64.one, F64.one, F64.one, F64.one]) := by decide +kernel
-- V-RES-3
theorem test_resample_refuses_short_pixels :
    refusal? (exec (.resample ⟨2, 2, 3, List.replicate 11 0#8⟩ 8) State.reset) = some .imageShape := by decide

/-! ### Ditherer -/

-- V-DIT-8: the final working copy and the bits
theorem test_dither_working_copy :
    (ditherScan ⟨3, 2, [0x3fe3333333333333#64, 0x3fd3333333333333#64, 0x3feccccccccccccd#64,
        0x3fc999999999999a#64, 0x3fe6666666666666#64, 0x3fd999999999999a#64]⟩ 6)
      = ⟨[0x3fe3333333333333#64, 0x3fbffffffffffffe#64, 0x3fee8ccccccccccd#64,
          0x3fb9333333333334#64, 0x3fe7f4cccccccccc#64, 0x3fd227cccccccccc#64], [0, 1, 0, 1, 0, 1]⟩ := by decide +kernel
-- V-DIT-1
theorem test_dither_midgray :
    nextField (fun s => s.M.map (fun m => m.bits))
        (exec (.dither (.given ⟨8, 2, List.replicate 16 F64.half⟩)) State.reset)
      = some (some [1, 0, 1, 0, 1, 0, 1, 0, 0, 1, 0, 1, 0, 1, 0, 1]) := by decide +kernel
-- R39: no G
theorem test_dither_unwritten : refusal? (exec (.dither .buffer) State.reset) = some .unwritten := by decide

/-! ### BitPacker -/

-- V-PK-3
theorem test_pack :
    nextField State.P (exec (.pack (.given ⟨8, 2, [0, 1, 0, 1, 1, 1, 1, 1, 1, 0, 0, 0, 0, 0, 0, 1]⟩)) State.reset)
      = some (some ⟨8, 2, [0x5f#8, 0x81#8]⟩) := by decide
-- V-PK-4
theorem test_pack_invalid_dimension :
    nextField (fun s => (s.phase, s.err, s.P)) (exec (.pack (.given ⟨12, 1, List.replicate 12 0⟩)) State.reset)
      = some (.fault, .invalidDimension 12, none) := by decide
-- V-PK-7
theorem test_unpack :
    nextField State.answer (exec (.unpack ⟨8, 1, [0x5f#8]⟩) State.reset)
      = some (some (.mono ⟨8, 1, [0, 1, 0, 1, 1, 1, 1, 1]⟩)) := by decide
-- V-PK-8
theorem test_unpack_refuses_width : refusal? (exec (.unpack ⟨12, 1, [0#8]⟩) State.reset) = some .raster := by decide

/-! ### CommandEncoder -/

-- V-ENC-1, outside a job and in one
theorem test_reset_returns_frame :
    nextField (fun s => (s.answer, s.txlog)) (exec .reset State.reset)
      = some (some (.frame [0x1b#8, 0x40#8]), []) := by decide
theorem test_reset_emits :
    nextField (fun s => (s.jpc, s.txlog)) (step (running [.reset] [.accepted 2]))
      = some (1, [[0x1b#8, 0x40#8]]) := by decide
theorem test_alignment_frame :
    nextField State.txlog (step (running [.setAlignment .center] [.accepted 3]))
      = some [[0x1b#8, 0x61#8, 0x01#8]] := by decide
theorem test_alignment_refuses_three : refusal? (exec (.setAlignment 3) State.reset) = some .operand := by decide
-- V-ENC-2: double_width alone is 0x20, and no flag sends nothing
theorem test_style_double_width :
    nextField State.txlog (step (running [.setTextStyle false false true false] [.accepted 3]))
      = some [[0x1b#8, 0x21#8, 0x20#8]] := by decide
theorem test_style_default_not_sent :
    nextField (fun s => (s.jpc, s.txlog, s.txCalls)) (step (running [.setTextStyle false false false false] []))
      = some (1, [], 0) := by decide
-- V-ENC-3
theorem test_feed_lines :
    nextField State.txlog (step (running [.feedLines 255#8] [.accepted 3])) = some [[0x1b#8, 0x64#8, 0xff#8]] := by decide
theorem test_feed_dots :
    nextField State.txlog (step (running [.feedDots 24#8] [.accepted 3])) = some [[0x1b#8, 0x4a#8, 0x18#8]] := by decide
theorem test_feed_refuses_256 : refusal? (exec (.feedLines 256) State.reset) = some .operand := by decide
-- V-ENC-4: width 2048, height 0
theorem test_bitmap_header_only :
    nextField State.answer (exec (.bitmapBlock .normal (.given 2048 0 ⟨2048, 0, []⟩)) State.reset)
      = some (some (.frame [0x1d#8, 0x76#8, 0x30#8, 0#8, 0#8, 1#8, 0#8, 0#8])) := by decide
theorem test_bitmap_mismatch :
    refusal? (exec (.bitmapBlock .normal (.given 16 1 oneByte)) State.reset) = some .bitmapMismatch := by decide
-- V-ENC-5
theorem test_write_text :
    nextField State.txlog (step (running [.writeText [0x4f#8, 0x4b#8, 0x0a#8]] [.accepted 3]))
      = some [[0x4f#8, 0x4b#8, 0x0a#8]] := by decide

/-! ### Sequencer -/

-- V-SEQ-1
theorem test_short_write :
    nextField (fun s => (s.phase, s.err, s.txlog)) (step (running [.reset] [.accepted 1]))
      = some (.fault, .transportError "short write" 0 (some 1), []) := by decide
theorem test_transport_protocol : refusal? (step (running [.reset] [.accepted 3])) = some .txProtocol := by decide
-- V-SEQ-2
theorem test_start :
    nextField (fun s => (s.phase, s.cfg, s.job)) (step { State.reset with
        moves := [.start], cfgIn := some ⟨8⟩, jobIn := [.reset] }) = some (.run, some ⟨8⟩, [.reset]) := by decide
theorem test_start_without_cfg : refusal? (step { State.reset with moves := [.start] }) = some .notReady := by decide
-- V-SEQ-3
theorem test_decode_error :
    nextField (fun s => (s.phase, s.err, s.jpc)) (step { rasterizing 0 ⟨0, 0, 0, []⟩ with
        img := some (.decodeError "bad header") }) = some (.fault, .decodeError "bad header", 0) := by decide
-- Program D, RASTERIZE
theorem test_rasterize_checkerboard :
    nextField (fun s => (s.jpc, s.P)) (step (rasterizing 8 ⟨4, 4, 1,
        [0#8, 255#8, 0#8, 255#8, 255#8, 0#8, 255#8, 0#8, 0#8, 255#8, 0#8, 255#8, 255#8, 0#8, 255#8, 0#8]⟩))
      = some (1, some ⟨8, 4, [0xa0#8, 0x5f#8, 0xa0#8, 0x5f#8]⟩) := by decide +kernel
-- Program C, RASTERIZE: 20x3 RGBA at max_width 8
theorem test_rasterize_rgba :
    nextField State.P (step (rasterizing 8 ⟨20, 3, 4, (List.range 60).flatMap (fun i =>
        [BitVec.ofNat 8 (13 * (i % 20)), BitVec.ofNat 8 (90 * (i / 20) + 7 * (i % 20)),
          BitVec.ofNat 8 (255 - 12 * (i % 20)), 0x80#8])⟩))
      = some (some ⟨8, 1, [0xa4#8]⟩) := by decide +kernel
-- Program H
theorem test_bitmap_unwritten : refusal? (step (running [.bitmapBlock .normal] [])) = some .unwritten := by decide
-- R248, R260: an outstanding call changes nothing else, and block reset abandons it and ignores its answer
theorem test_call_outstanding :
    nextField (fun s => (s.phase, s.jpc, s.txlog, s.txPending))
        (step { running [.reset] [.accepted 2] with moves := [.callPending] })
      = some (.run, 0, [], some [0x1b#8, 0x40#8]) := by decide
theorem test_block_reset_abandons_call :
    nextField (fun s => (s.phase, s.txAnswers, s.txCalls, s.txPending))
        (step { running [.reset] [.accepted 2, .accepted 3] with moves := [.blockReset], txPending := some [0x1b#8, 0x40#8] })
      = some (.idle, [.accepted 3], 1, none) := by decide
theorem test_emit_appends :
    nextField State.txlog (exec (.emit [0x41#8]) (running [] [.accepted 1])) = some [[0x41#8]] := by decide
-- a table word runs as the first operation
theorem test_fetch_word_runs :
    nextField (fun s => (s.jpc, s.txlog)) (step (State.reset.withFetchWord 24 0x1b6403))
      = some (1, [[0x1b#8, 0x64#8, 0x03#8]]) := by decide

/-! ### Job notation -/

-- Program B's macro, R220
theorem test_parse_print_text :
    parseJob "PRINT_TEXT RIGHT, (bold, underline), \"OK\\n\", FEED_DOTS 24 ; program B"
      = .ok [.reset, .setAlignment 2, .setTextStyle true true false false, .writeText [0x4f#8, 0x4b#8, 0x0a#8],
          .feedDots 24, .reset] := by decide +kernel
-- R92
theorem test_parse_lines :
    parseJob "RASTERIZE\n SET_TEXT_STYLE double_height\nBITMAP_BLOCK NORMAL\nWRITE_TEXT 0x1b 64 ; raw\nFEED_LINES 0x03"
      = .ok [.rasterize, .setTextStyle false false false true, .bitmapBlock .normal .fromP,
          .writeText [0x1b#8, 0x40#8], .feedLines 3] := by decide +kernel
-- Program G's listing: operation indices, a comment, no style flag
theorem test_parse_listing :
    parseJob "0 RESET\n1 SET_TEXT_STYLE bold\n2 WRITE_TEXT \"A;B\"\n3 SET_TEXT_STYLE              ; intended"
      = .ok [.reset, .setTextStyle true false false false, .writeText [0x41#8, 0x3b#8, 0x42#8],
          .setTextStyle false false false false] := by decide +kernel
-- R92's list of bytes as PRINT_TEXT's text
theorem test_parse_print_text_bytes :
    parseJob "PRINT_TEXT LEFT, (), 0x4f 0x4b, FEED_LINES 2"
      = .ok [.reset, .setAlignment 0, .setTextStyle false false false false, .writeText [0x4f#8, 0x4b#8],
          .feedLines 2, .reset] := by decide +kernel
-- R94
theorem test_parse_refuses_alignment : parseJob "SET_ALIGNMENT MIDDLE" = .error .operand := by decide +kernel

/-! ### Witnesses: for each obligation with hypotheses, operands and a state that meet them, at the ends of its ranges -/

open Sys2Proof.Safety

/-- An 8 by 1 image, gray. -/
def grayRow : DecodedImage := ⟨8, 1, 1, List.replicate 8 0x40#8⟩
/-- An 8 by 1 raster, all 0.5. -/
def halfRow : GrayscaleRaster := ⟨8, 1, List.replicate 8 F64.half⟩
/-- An 8 by 1 mono raster. -/
def monoRow : MonoRaster := ⟨8, 1, [1, 0, 1, 0, 0, 1, 0, 0]⟩
/-- A mono raster whose width is no multiple of 8. -/
def monoTwelve : MonoRaster := ⟨12, 1, List.replicate 12 1⟩
/-- A state in FAULT, with the outside's next moves. -/
def faulted (moves : List HostMove) : State :=
  { State.reset with phase := .fault, err := .transportError "short write" 0 (some 1), cfg := some ⟨8⟩, job := [.reset]
                     moves := moves }

theorem witness_NormalizeByChannelCount :
    ¬ (1 ≤ 0 ∧ 0 ≤ 4 ∧ ([] : List Byte).length = 0) ∧
      ¬ (1 ≤ 5 ∧ 5 ≤ 4 ∧ [1#8, 2#8, 3#8, 4#8, 5#8].length = 5) ∧ ¬ (1 ≤ 3 ∧ 3 ≤ 4 ∧ [1#8, 2#8].length = 3) := by decide
theorem witness_LumaIsExactAndStrictlyIncreasing :
    255 ≤ 255 ∧ y1000 255 255 255 = 255000 ∧ 254 < 255 ∧ y1000 0 0 254 < y1000 0 0 255 := by decide
theorem witness_LuminanceReturnsGammaOfLuma :
    (255 ≤ 255 ∧ 0 ≤ 255 ∧ 128 ≤ 255) ∧ ¬ (255 ≤ 255 ∧ 255 ≤ 255 ∧ 256 ≤ 255) := by decide
theorem witness_ReferenceLumPowIsNearestToRealPower : 255000 ≤ 255000 ∧ F64.zero.isFinite = true := by decide +kernel
theorem witness_ReferenceLuminanceMonotoneInRange : 0 ≤ 0 ∧ 254 ≤ 255 ∧ 255 ≤ 255 := by decide
theorem witness_ReferenceThresholdIs55498 : 55497 ≤ 255000 ∧ 55498 ≤ 255000 ∧ 55 ≤ 255 ∧ 56 ≤ 255 := by decide
-- 1 + 2^-53 and 1 - 2^-54 are ties
theorem witness_SumIsRoundedToNearestEven :
    F64.one.isFinite = true ∧ F64.isFinite 0x3ca0000000000000#64 = true ∧ F64.isFinite 0x3ff0000000000001#64 = true ∧
    (F64.add F64.one 0x3ca0000000000000#64).isFinite = true ∧
    |(F64.add F64.one 0x3ca0000000000000#64).scaled - (F64.one.scaled + F64.scaled 0x3ca0000000000000#64)|
      = |F64.scaled 0x3ff0000000000001#64 - (F64.one.scaled + F64.scaled 0x3ca0000000000000#64)| ∧
    F64.scaled 0x3ff0000000000001#64 ≠ (F64.add F64.one 0x3ca0000000000000#64).scaled ∧
    (F64.sub F64.one 0x3c90000000000000#64).isFinite = true ∧
    |(F64.sub F64.one 0x3c90000000000000#64).scaled - (F64.one.scaled - F64.scaled 0x3c90000000000000#64)|
      = |F64.scaled 0x3fefffffffffffff#64 - (F64.one.scaled - F64.scaled 0x3c90000000000000#64)| ∧
    F64.scaled 0x3fefffffffffffff#64 ≠ (F64.sub F64.one 0x3c90000000000000#64).scaled := by decide +kernel
-- (1 + 2^-52) × 1.5 is a tie
theorem witness_ProductIsRoundedToNearestEven :
    F64.isFinite 0x3ff0000000000001#64 = true ∧ F64.isFinite 0x3ff8000000000000#64 = true ∧
    F64.isFinite 0x3ff8000000000001#64 = true ∧
    F64.mul 0x3ff0000000000001#64 0x3ff8000000000000#64 = 0x3ff8000000000002#64 ∧
    |F64.scaled 0x3ff8000000000002#64 * 2 ^ 1074
        - F64.scaled 0x3ff0000000000001#64 * F64.scaled 0x3ff8000000000000#64|
      = |F64.scaled 0x3ff8000000000001#64 * 2 ^ 1074
        - F64.scaled 0x3ff0000000000001#64 * F64.scaled 0x3ff8000000000000#64| := by decide +kernel
theorem witness_DestinationSizeIsExactRational :
    (0 < 20 ∧ 0 < 3 ∧ 10 < 20) ∧ 7 < 8 ∧ 20 ≤ 20 ∧ (0 < 1000 ∧ 0 < 3 ∧ 0 < 1000 ∧ 3 * 0 < 1000) := by decide
theorem witness_SourceIndicesAreExactRational :
    (0 < 20 ∧ 0 < 3 ∧ 0 < 5 ∧ 7 < destWidth 20 5 ∧ 0 < destHeight 20 8 5) ∧
      (8 ≤ 20 ∧ 8 ≤ 10 ∧ 10 < 20 ∧ 7 < destWidth 20 10 ∧ 0 < destHeight 20 3 10) ∧
      (8 ≤ 8 ∧ 7 < destWidth 8 8 ∧ 2 < destHeight 8 3 8) := by decide
theorem witness_ResampleSamplesSelectedPixels :
    grayRow.shapeOk = true ∧ 7 < destWidth 8 8 ∧ 0 < destHeight 8 1 8 ∧
      DecodedImage.shapeOk ⟨8, 0, 1, []⟩ = false := by decide
theorem witness_ResampledRasterProperties :
    (resample Params.reference grayRow 8).toOption.isSome = true ∧
      (resample Params.reference ⟨16, 1, 1, List.replicate 16 0#8⟩ 8).toOption.isSome = true ∧
      (resample Params.reference ⟨1, 1, 1, [0#8]⟩ 0).toOption.isSome = true ∧
      ∀ e ∈ Params.reference.lumPowTable, e.2.isIntensity = true := by decide +kernel
theorem witness_ResampleIgnoresTruncatedColumns :
    DecodedImage.shapeOk ⟨9, 1, 1, [1#8, 2#8, 3#8, 4#8, 5#8, 6#8, 7#8, 8#8, 9#8]⟩ = true ∧
      DecodedImage.shapeOk ⟨9, 1, 1, [1#8, 2#8, 3#8, 4#8, 5#8, 6#8, 7#8, 8#8, 0#8]⟩ = true ∧
      srcX 9 9 (destWidth 9 9 - 1) = 7 ∧ (8 ≤ 9 ∧ 9 ≤ 9) ∧ (8 ≤ 9 ∧ 9 < 10 ∧ 9 % 8 ≠ 0) ∧
      (∀ x ≤ 7, ∀ y < 1, ∀ k < 1,
        [1#8, 2#8, 3#8, 4#8, 5#8, 6#8, 7#8, 8#8, 9#8][pixoff 9 1 x y k]?
          = [1#8, 2#8, 3#8, 4#8, 5#8, 6#8, 7#8, 8#8, 0#8][pixoff 9 1 x y k]?) := by decide
theorem witness_ResampleIgnoresAlpha :
    DecodedImage.shapeOk ⟨1, 1, 2, [5#8, 0#8]⟩ = true ∧ DecodedImage.shapeOk ⟨1, 1, 2, [5#8, 255#8]⟩ = true ∧
      ∀ i, i % 2 ≠ 2 - 1 → [5#8, 0#8][i]? = [5#8, 255#8][i]? := by
  refine ⟨by decide, by decide, fun i hi => ?_⟩
  match i, hi with
  | 0, _ => rfl
  | 1, h => exact absurd rfl h
  | n + 2, _ => simp
theorem witness_DitherQuantizesEachPixel :
    (halfRow.ok = true ∧ { State.reset with G := some halfRow }.G = some halfRow ∧ 7 < halfRow.width * halfRow.height) ∧
      GrayscaleRaster.ok ⟨2, 1, [F64.half]⟩ = false ∧
      { State.reset with G := some ⟨2, 1, [F64.half]⟩ }.G = some ⟨2, 1, [F64.half]⟩ := by
  decide +kernel
theorem witness_DitherDiffusesToFourNeighbours :
    GrayscaleRaster.ok ⟨3, 2, List.replicate 6 F64.half⟩ = true ∧ 1 < 3 ∧ 0 < 2 ∧ 2 < 3 ∧ 1 < 2 := by decide +kernel
theorem witness_DitherKeepsUniformRasters : 8 ≤ 8 * 1 ∧ F64.half.isFinite = true := by decide +kernel
theorem witness_DitherValuesStayBounded : halfRow.ok = true ∧ 7 < halfRow.width * halfRow.height := by decide +kernel
theorem witness_PackPlacesLeftmostPixelInBit7 :
    monoRow.ok = true ∧ monoRow.width % 8 = 0 ∧ { State.reset with M := some monoRow }.M = some monoRow ∧
      0 < monoRow.height ∧ 0 < monoRow.width / 8 ∧ 7 < 8 := by decide
theorem witness_PackRaisesInvalidDimension :
    (monoTwelve.ok = true ∧ monoTwelve.width % 8 ≠ 0 ∧ { State.reset with M := some monoTwelve }.M = some monoTwelve) ∧
      MonoRaster.ok ⟨12, 1, [1]⟩ = false ∧ MonoRaster.ok ⟨8, 1, [2, 0, 0, 0, 0, 0, 0, 0]⟩ = false ∧
      { State.reset with M := some ⟨12, 1, [1]⟩ }.M = some ⟨12, 1, [1]⟩ := by decide
theorem witness_UnpackReadsBit7First :
    (oneByte.width % 8 = 0 ∧ oneByte.bytes.length = oneByte.width / 8 * oneByte.height) ∧
      ¬ (12 % 8 = 0 ∧ [0#8].length = 12 / 8 * 1) := by decide
theorem witness_PackUnpackRoundTrip :
    (monoRow.ok = true ∧ monoRow.width % 8 = 0) ∧ oneByte.ok = true ∧ (monoTwelve.ok = true ∧ monoTwelve.width % 8 ≠ 0) := by
  decide
-- the hypotheses of yieldsFrame, outside a job and in one
theorem witness_ResetYieldsItsFrame :
    State.reset.phase ≠ .run ∧ (running [.reset] [.accepted 2]).phase = .run ∧
      (running [.reset] [.accepted 2]).txAnswer [0x1b#8, 0x40#8] = .accepted 2 := by decide
theorem witness_AlignmentYieldsItsOrdinal :
    2 < 3 ∧ (running [.setAlignment .left] [.accepted 3]).phase = .run ∧
      (running [.setAlignment .left] [.accepted 3]).txAnswer [0x1b#8, 0x61#8, 0x00#8] = .accepted 3 := by decide
theorem witness_StyleYieldsItsFlagByte :
    (running [.setTextStyle true false false false] [.accepted 3]).phase = .run ∧
      (running [.setTextStyle true false false false] [.accepted 3]).txAnswer [0x1b#8, 0x21#8, 0x08#8] = .accepted 3 := by
  decide
theorem witness_FeedsYieldTheirCount :
    255 ≤ 255 ∧ 255 < 256 ∧ (running [.feedLines 255#8] [.accepted 3]).phase = .run ∧
      (running [.feedLines 255#8] [.accepted 3]).txAnswer [0x1b#8, 0x64#8, 0xff#8] = .accepted 3 := by decide
theorem witness_BitmapYieldsHeaderAndPayload :
    (BitmapMode.normal.ordinal? [] = some 0x00#8 ∧ 524280 % 8 = 0 ∧
      ([] : List Byte).length = 524280 / 8 * 0 ∧ 524280 / 8 ≤ 65535 ∧ 0 ≤ 65535) ∧
    (oneByte.width % 8 = 0 ∧ oneByte.bytes.length = oneByte.width / 8 * oneByte.height ∧
      { State.reset with P := some oneByte }.P = some oneByte) ∧
    (running [.bitmapBlock .normal] [.accepted 9]).txAnswer
      [0x1d#8, 0x76#8, 0x30#8, 0#8, 1#8, 0#8, 1#8, 0#8, 0xa4#8] = .accepted 9 := by decide
theorem witness_BitmapChecksInOrder :
    (BitmapMode.extra "DOUBLE").ordinal? [] = none ∧
    (BitmapMode.normal.ordinal? [] = some 0x00#8 ∧ ¬ (16 = oneByte.width ∧ 1 = oneByte.height)) ∧
    ((0 = 0 ∧ 524288 % 8 = 0 ∧ ([] : List Byte).length = 524288 / 8 * 0) ∧ ¬ (524288 / 8 ≤ 65535 ∧ 0 ≤ 65535)) ∧
    (Memory.wf { State.reset with P := some oneByte } = true ∧
      { State.reset with P := some oneByte }.P = some oneByte) ∧
    (PackedBitmap.ok ⟨0, 65536, []⟩ = true ∧ 65535 < 65536) := by decide
theorem witness_TextYieldsItsBytes :
    (running [.writeText [0x41#8]] [.accepted 1]).txAnswer [0x41#8] = .accepted 1 ∧
      (running [.writeText []] []).phase = .run := by decide
theorem witness_EmitReadsTheAnswer :
    ([0x41#8, 0x42#8] ≠ [] ∧ (running [] [.accepted 2]).txAnswer [0x41#8, 0x42#8] = .accepted 2) ∧
      ((running [] [.accepted 1]).txAnswer [0x41#8, 0x42#8] = .accepted 1 ∧ 1 < 2) ∧
      ((running [] [.accepted 3]).txAnswer [0x41#8, 0x42#8] = .accepted 3 ∧ 2 < 3) ∧
      (running [] [.transportError "off"]).txAnswer [0x41#8, 0x42#8] = .transportError "off" := by decide
theorem witness_LogGrowsByAcceptedFrames :
    (running [.reset] [.accepted 2]).moves = [] ∧
      nextField State.txCalls (step (running [.reset] [.accepted 2])) = some 1 ∧
      nextField State.phase (step (running [.reset] [.accepted 1])) = some .fault ∧
      (running [.reset] [.accepted 2]).nextFrame = some [0x1b#8, 0x40#8] := by decide
theorem witness_modeMapWf : modeMapWf [("DOUBLE", 0x01#8)] := ⟨by decide, by decide, by decide⟩
theorem witness_DecodeOfEncodeIsIdentity :
    encode [("DOUBLE", 0x01#8)] (.bitmapBlock (.extra "DOUBLE") (.given 8 1 oneByte))
      = some [0x1d#8, 0x76#8, 0x30#8, 1#8, 1#8, 0#8, 1#8, 0#8, 0xa4#8] ∧
    encode [] (.writeText [0x41#8]) = some [0x41#8] ∧ plainByte 0x41#8 := ⟨by decide, by decide, by decide, by decide⟩
theorem witness_DecodedBytesAreTheEncoding :
    decode [("DOUBLE", 0x01#8)] [0x1b#8, 0x61#8, 0x02#8, 0x41#8] = .ok (.setAlignment 2, [0x41#8]) := by decide
theorem witness_StreamDecodesToItsOperations :
    [Instr.reset, .writeText [0x41#8, 0x42#8]].map (encode []) = [[0x1b#8, 0x40#8], [0x41#8, 0x42#8]].map some ∧
      (∀ b ∈ [0x41#8, 0x42#8], plainByte b) ∧ [[0x1b#8, 0x40#8], [0x41#8, 0x42#8]].flatten.length ≤ 4 := by
  refine ⟨by decide, ?_, by decide⟩
  simp [plainByte]
theorem witness_StepRunsTheJobOperation :
    ((running [] []).moves = [] ∧ (running [] []).phase = .run ∧ (running [] []).jpc = (running [] []).job.length) ∧
    (running [.reset] [.accepted 2]).job[(running [.reset] [.accepted 2]).jpc]? = some .reset ∧
    nextField State.phase (exec (JobOp.toInstr .reset) (running [.reset] [.accepted 2])) = some .run ∧
    nextField State.phase (exec (JobOp.toInstr .reset) (running [.reset] [.accepted 1])) = some .fault ∧
    refusal? (exec (JobOp.toInstr .reset) (running [.reset] [.accepted 3])) = some .txProtocol := by decide
theorem witness_StepRunsTheDecodedWord :
    decodeTableWord 24 0x1b64ff = some (.feedLines 255) ∧
      decodeTableWord 64 0x1d76300000000000 = some (.bitmapBlock .normal (.given 0 0 ⟨0, 0, []⟩)) := by decide
theorem witness_RunningAWordSendsItsBytes :
    State.reset.params = Params.reference ∧ decodeTableWord 24 0x1b2100 = some (.setTextStyle false false false false) ∧
      encode [] (.setTextStyle false false false false) = some [0x1b#8, 0x21#8, 0#8] ∧
      decodeTableWord 16 0x1b40 = some .reset ∧ encode [] .reset = some [0x1b#8, 0x40#8] := by decide
theorem witness_RasterizeRunsTheImagePath :
    State.reset.img = none ∧ (rasterizing 8 grayRow).cfg = some ⟨8⟩ ∧ (rasterizing 8 grayRow).img = some (.ok grayRow) ∧
      grayRow.shapeOk = true ∧ DecodedImage.shapeOk ⟨0, 0, 0, []⟩ = false ∧
      { rasterizing 8 grayRow with img := some (.decodeError "bad") }.img = some (.decodeError "bad") ∧
      ∀ e ∈ (rasterizing 8 grayRow).params.lumPowTable, e.2.isIntensity = true := by decide
theorem witness_UnwrittenBuffersAreRefused :
    State.reset.G = none ∧ State.reset.M = none ∧ State.reset.P = none ∧ State.reset.img = none := by decide
theorem witness_JobCounterMovesByOne :
    nextField State.jpc (exec .reset (running [.reset] [.accepted 2])) = some 0 ∧
    nextField State.jpc (State.start { State.reset with cfgIn := some ⟨8⟩, jobIn := [.reset] }) = some 0 ∧
    (running [.reset] [.accepted 2]).moves = [] ∧ (running [.reset] [.accepted 2]).phase = .run ∧
    (running [.reset] [.accepted 2]).jpc < (running [.reset] [.accepted 2]).job.length ∧
    nextField State.jpc (step (running [.reset] [.accepted 2])) = some 1 ∧
    nextField State.jpc (step (running [.reset] [.accepted 1])) = some 0 := by decide
theorem witness_OnlyRasterizeWritesBuffersInAJob :
    nextField State.phase (step (running [.reset] [.accepted 2])) = some .run ∧
      nextField State.phase (step (rasterizing 8 grayRow)) = some .run ∧
      nextField State.phase (step (running [.reset] [.accepted 1])) = some .fault := by decide +kernel
theorem witness_OperationsWriteOnlyTheirOwnState :
    nextField State.P (exec (.pack (.given monoRow)) State.reset) ≠ some State.reset.P ∧
      nextField State.txlog (exec .reset (running [.reset] [.accepted 2])) = some [[0x1b#8, 0x40#8]] := by decide
theorem witness_LatchedInputsAreImmutableInRun :
    { running [.reset] [.accepted 2] with moves := [.tick] }.phase = .run ∧
      { running [.reset] [.accepted 2] with moves := [.tick] }.moves.head? ≠ some .blockReset ∧
      nextField State.jpc (step { running [.reset] [.accepted 2] with moves := [.tick] }) = some 1 := by decide
theorem witness_FaultEntryChangesOnlyErrAndPhase :
    (running [.reset] [.accepted 1]).phase ≠ .fault ∧
      nextField State.phase (exec .reset (running [.reset] [.accepted 1])) = some .fault := by decide
theorem witness_FaultCausesAndRecords :
    frameOf (running [.reset] [.accepted 1]) .reset = some [0x1b#8, 0x40#8] ∧
      nextField (fun t => t.err.code) (exec .reset (running [.reset] [.accepted 1])) = some 3 ∧
    nextField (fun t => t.err.code) (exec (.pack (.given monoTwelve)) State.reset) = some 2 ∧
      nextField (fun t => t.err.code) (exec (.emit [0x41#8]) (running [] [.transportError "off"])) = some 3 ∧
      nextField (fun t => t.err.code) (exec .rasterize { rasterizing 8 grayRow with img := some (.decodeError "bad") })
        = some 1 := by decide
theorem witness_FaultPersistsUntilBlockReset :
    (faulted []).phase = .fault ∧ nextField State.phase (step (faulted [])) = some .fault ∧
      nextField State.phase (step (faulted [.readStatus])) = some .fault ∧
      (faulted [.start]).moves.head? = some .start ∧ (faulted [.blockReset]).moves.head? = some .blockReset := by decide
theorem witness_FaultStopsTheJob :
    (running [.reset, .reset] [.accepted 1]).moves = [] ∧ (running [.reset, .reset] [.accepted 1]).phase = .run ∧
      nextField State.phase (step (running [.reset, .reset] [.accepted 1])) = some .fault := by decide
/-- A canonical image job about to start on an image that did not decode. -/
def undecodedJob : State :=
  { State.reset with moves := [.start], cfgIn := some ⟨8⟩, imgIn := some (.decodeError "bad")
                     jobIn := printImage .left ⟨false, false, false, false⟩ .normal (.lines 3#8) }
theorem witness_DecodeErrorAbortsBeforeAnyFrame :
    undecodedJob.phase = .idle ∧ undecodedJob.moves = [.start] ∧ undecodedJob.cfgIn = some ⟨8⟩ ∧
      undecodedJob.imgIn = some (.decodeError "bad") ∧
      undecodedJob.jobIn = printImage .left ⟨false, false, false, false⟩ .normal (.lines 3#8) := by decide
theorem witness_OperandsOutsideTheirTypeAreRefused :
    (∀ a : Sys2Proof.Alignment, a.ordinal.toNat ≠ 3) ∧ 255 < 256 ∧
      ∀ e ∈ State.reset.params.bitmapModeExtra, e.1 ≠ "DOUBLE" :=
  ⟨fun a => by cases a <;> decide, by decide, by decide⟩
theorem witness_JobsHoldExactlyTheTypedOperations :
    JobOp.ofInstr? [] (.setAlignment 2) = some (.setAlignment .right) ∧ JobOp.ofInstr? [] (.setAlignment 3) = none ∧
      JobOp.ofInstr? [] (.emit []) = none ∧ (JobOp.toInstr (.feedDots 255#8)).wf [] = true ∧
      jobOfInstrs? [] [.reset, .feedLines 255] = some [.reset, .feedLines 255#8] ∧
      (State.reset.phase = .idle ∨ State.reset.phase = .done) ∧
      { State.reset with moves := [.writeJob [.reset]] }.moves = [.writeJob [.reset]] ∧
      [JobOp.reset].map JobOp.toInstr = [.reset] ∧ (JobOp.toInstr .reset).wf [] = true := by decide
/-- No job spells a list with a count above 255. -/
theorem witness_JobsHoldExactlyTheTypedOperations_refused :
    ∀ job : List JobOp, job.map JobOp.toInstr = [.feedLines 256] → ∃ op ∈ job, op.toInstr.wf [] = false := by
  intro job h
  obtain ⟨op, rfl, hop⟩ := List.map_eq_singleton_iff.mp h
  exact ⟨op, by simp, by rw [hop]; decide⟩
theorem witness_ResetValuesAreTheSpecs :
    { State.reset with moves := [.start] }.cfgIn = none ∧
      { State.reset with moves := [.start] }.moves.head? = some .start ∧
      (faulted [.blockReset]).moves.head? = some .blockReset := by decide
theorem witness_HostMovesOfTheTable :
    { State.reset with moves := [.start], cfgIn := some ⟨8⟩ }.cfgIn = some ⟨8⟩ ∧
      (State.reset.phase = .idle ∨ State.reset.phase = .done) ∧
      jobOfInstrs? State.reset.params.bitmapModeExtra [.reset, .feedLines 255] = some [.reset, .feedLines 255#8] ∧
      ((faulted [.start]).phase = .run ∨ (faulted [.start]).phase = .fault) ∧
      ((running [] []).phase = .run ∨ (running [] []).phase = .fault) ∧
      { State.reset with moves := [.transact .reset] }.moves = [.transact .reset] ∧
      State.reset.txPending = none ∧
      (running [.reset] []).job[(running [.reset] []).jpc]? = some .reset ∧
      frameOf (running [.reset] []) (JobOp.toInstr .reset) = some [0x1b#8, 0x40#8] ∧
      State.reset.phase ≠ .run ∧ (running [.rasterize] []).nextFrame = none ∧
      (running [.setTextStyle false false false false] []).nextFrame = some [] := by decide
theorem witness_StatusReportsPhaseErrAndCounter :
    Inv (faulted [.readStatus]) ∧ Inv { State.reset with phase := .done, moves := [.readStatus] } :=
  ⟨⟨by decide, by decide, by decide, by decide, by decide, by decide, by intro f h; cases h⟩,
    ⟨by decide, by decide, by decide, by decide, by decide, by decide, by intro f h; cases h⟩⟩
theorem witness_EveryRunEnds :
    (running [.reset, .reset] []).moves = [] ∧ (running [.reset, .reset] []).phase = .run ∧
      (running [.reset, .reset] []).jpc ≤ (running [.reset, .reset] []).job.length := by decide
theorem witness_AcceptedJobSendsItsFramesInOrder :
    (running [.reset, .setTextStyle false false false false, .feedLines 3#8] [.accepted 2, .accepted 3]).job.map
        (jobFrame (running [.reset, .setTextStyle false false false false, .feedLines 3#8] [.accepted 2, .accepted 3]))
      = [[0x1b#8, 0x40#8], [], [0x1b#8, 0x64#8, 0x03#8]].map some ∧
    ([[0x1b#8, 0x40#8], [], [0x1b#8, 0x64#8, 0x03#8]].filter (fun f => f ≠ [])).map
        (fun f => TxResult.accepted f.length) = [.accepted 2, .accepted 3] := by decide
/-- The invariant with a call outstanding. -/
theorem witness_invariant_call_outstanding :
    Inv { running [.reset] [.accepted 2] with txPending := some [0x1b#8, 0x40#8] } :=
  ⟨by decide, by decide, by decide, by decide, by decide, by decide,
    by intro f h; cases h; exact ⟨by decide, by decide⟩⟩
theorem witness_EveryStepKeepsTheInvariant :
    Inv (running [.reset] [.accepted 2]) ∧
      nextField State.jpc (step (running [.reset] [.accepted 2])) = some 1 :=
  ⟨⟨by decide, by decide, by decide, by decide, by decide, by decide, by intro f h; cases h⟩, by decide⟩

end Sys2Proof.Tests
end

section
/-! The job counter `jpc` (R24): no operation writes it, an operation leaves the phase or takes a fault, and so the running
job's step alone moves it. -/

namespace Sys2Proof.Machine

/-- No ending of an operation writes the job counter: only the sequencer's step moves it (R211). -/
theorem Effect.jpc_eq {i : Instr} {s t : State} (h : Effect i s t) : t.jpc = s.jpc := by
  cases h <;> subst t <;> rfl

/-- An operation changes the phase by a fault alone (R232). -/
theorem Effect.phase_eq_or_fault {i : Instr} {s t : State} (h : Effect i s t) :
    t.phase = s.phase ∨ t.phase = .fault := by
  cases h with
  | badWidth | undecoded | shortWrite | txFailed => subst t; exact .inr rfl
  | answered | wroteG | wroteM | wroteP | rasterized | unsent | logged => subst t; exact .inl rfl

/-- A step of a running job inside the job executes an operation (R211). -/
theorem step_executes {s t : State} (hm : s.moves = []) (hp : s.phase = .run) (hj : s.jpc < s.job.length)
    (h : step s = .next t) : ∃ op, s.job[s.jpc]? = some op ∧ advance (exec op.toInstr s) = .next t := by
  rw [step_quiet hm] at h
  obtain ⟨hidle, -⟩ | ⟨-, hend, -⟩ | ⟨op, -, hop, ha⟩ := coreStep_next h
  · exact absurd hp hidle
  · exact absurd hend (Nat.ne_of_lt hj)
  · exact ⟨op, hop, ha⟩

/-- An operation run from RUN either completes, and the counter moves by one, or takes a fault, and the counter stays (R24). -/
theorem advance_exec_jpc {i : Instr} {s t : State} (hp : s.phase = .run) (h : advance (exec i s) = .next t) :
    (t.phase = .run ∧ t.jpc = s.jpc + 1) ∨ (t.phase = .fault ∧ t.jpc = s.jpc) := by
  obtain ⟨u, hu, hadv⟩ := advance_next h
  have hjpc : u.jpc = s.jpc := (exec_effect hu).jpc_eq
  obtain ⟨hfault, rfl⟩ | ⟨hno, rfl⟩ := hadv
  · exact .inr ⟨hfault, hjpc⟩
  · have hrun : u.phase = .run := ((exec_effect hu).phase_eq_or_fault.resolve_right hno).trans hp
    exact .inl ⟨hrun, congrArg (· + 1) hjpc⟩

end Sys2Proof.Machine

namespace Sys2Proof.Proofs

open Sys2Proof.Machine

/-- Settles O42: the endings of an operation (`Effect`) leave `jpc`, START writes 0, and `advance` adds 1 exactly where no
fault was taken. -/
theorem jobCounterMovesByOne : Obligations.JobCounterMovesByOne := by
  refine ⟨fun i s t h => (exec_effect h).jpc_eq, fun s t h => ?_, fun s t hm hp hj h => ?_⟩
  · obtain ⟨-, -, rfl⟩ := start_next h
    rfl
  · obtain ⟨op, -, ha⟩ := step_executes hm hp hj h
    exact advance_exec_jpc hp ha

end Sys2Proof.Proofs
end

section
/-! The order of binary64 data with the sign bit clear is the order of their bits, and the one rounding of R10 is monotone. -/

namespace Sys2Proof

/-! ### Comparison by bits -/

/-- The sign bit is clear and the datum is no NaN: its bits are at most those of +infinity. -/
def F64.nonneg (a : F64) : Prop := a.toNat ≤ 2047 * 2 ^ 52

theorem F64.nonneg_half : F64.half.nonneg := (by decide : F64.half.toNat ≤ 2047 * 2 ^ 52)
theorem F64.nonneg_zero : F64.zero.nonneg := (by decide : F64.zero.toNat ≤ 2047 * 2 ^ 52)
theorem F64.nonneg_one : F64.one.nonneg := (by decide : F64.one.toNat ≤ 2047 * 2 ^ 52)

theorem F64.nonneg.expField_eq {a : F64} (h : a.nonneg) : a.expField = a.toNat / 2 ^ 52 := by
  unfold F64.nonneg at h
  unfold F64.expField
  omega

theorem F64.nonneg.scaled_eq {a : F64} (h : a.nonneg) : a.scaled = a.mag := by
  have hclear : a.msb = false := by
    rw [BitVec.msb_eq_decide, decide_eq_false_iff_not]
    unfold F64.nonneg at h
    omega
  simp [F64.scaled, F64.neg?, hclear]

theorem F64.nonneg.not_isNaN {a : F64} (h : a.nonneg) : a.isNaN = false := by
  have hfrac : a.expField = 2047 → a.frac = 0 := by
    rw [h.expField_eq]
    unfold F64.nonneg at h
    unfold F64.frac
    omega
  simpa [F64.isNaN] using hfrac

/-- A datum's magnitude lies below the least one of any larger exponent field: in the next binade, or the first after the
subnormals. -/
theorem F64.mag_lt_of_expField_lt {a : F64} {e : Nat} (h : a.expField < e) : a.mag < 2 ^ 52 * 2 ^ (e - 1) := by
  have hfrac : a.frac < 2 ^ 52 := Nat.mod_lt _ (by decide)
  unfold F64.mag
  split
  · exact hfrac.trans_le (Nat.le_mul_of_pos_right _ (by positivity))
  next hnormal =>
    calc (2 ^ 52 + a.frac) * 2 ^ (a.expField - 1)
        < 2 ^ 53 * 2 ^ (a.expField - 1) := Nat.mul_lt_mul_of_pos_right (by omega) (by positivity)
      _ = 2 ^ 52 * 2 ^ a.expField := by
          rw [← Nat.sub_add_cancel (Nat.one_le_iff_ne_zero.mpr hnormal), Nat.add_sub_cancel]
          ring
      _ ≤ 2 ^ 52 * 2 ^ (e - 1) := Nat.mul_le_mul_left _ (Nat.pow_le_pow_right (by decide) (by omega))

/-- The magnitude grows strictly with the bits: within one exponent field by the fraction, else by the exponent. -/
theorem F64.mag_lt_of_toNat_lt {a b : F64} (hb : b.nonneg) (h : a.toNat < b.toNat) : a.mag < b.mag := by
  have ha : a.nonneg := h.le.trans hb
  have hexp : a.expField ≤ b.expField := by
    rw [ha.expField_eq, hb.expField_eq]
    exact Nat.div_le_div_right h.le
  obtain hlt | heq := hexp.lt_or_eq
  · have hpos : b.expField ≠ 0 := Nat.ne_zero_of_lt hlt
    calc a.mag < 2 ^ 52 * 2 ^ (b.expField - 1) := F64.mag_lt_of_expField_lt hlt
      _ ≤ b.mag := by
          rw [F64.mag, if_neg hpos]
          exact Nat.mul_le_mul_right _ (Nat.le_add_right _ _)
  · have hfrac : a.frac < b.frac := by
      rw [ha.expField_eq, hb.expField_eq] at heq
      unfold F64.frac
      omega
    unfold F64.mag
    rw [heq]
    split
    · exact hfrac
    · exact Nat.mul_lt_mul_of_pos_right (by omega) (by positivity)

theorem F64.mag_lt_iff {a b : F64} (ha : a.nonneg) (hb : b.nonneg) : a.mag < b.mag ↔ a.toNat < b.toNat := by
  refine ⟨fun h => ?_, F64.mag_lt_of_toNat_lt hb⟩
  obtain hlt | heq | hgt := lt_trichotomy a.toNat b.toNat
  · exact hlt
  · rw [BitVec.eq_of_toNat_eq heq] at h
    exact absurd h (lt_irrefl _)
  · exact absurd h (F64.mag_lt_of_toNat_lt ha hgt).asymm

theorem F64.gt_iff {a b : F64} (ha : a.nonneg) (hb : b.nonneg) : a.gt b = true ↔ b.toNat < a.toNat := by
  simp [F64.gt, ha.not_isNaN, hb.not_isNaN, ha.scaled_eq, hb.scaled_eq, F64.mag_lt_iff hb ha]

theorem F64.le_iff {a b : F64} (ha : a.nonneg) (hb : b.nonneg) : a.le b = true ↔ a.toNat ≤ b.toNat := by
  rw [← not_lt, ← F64.mag_lt_iff hb ha]
  simp [F64.le, ha.not_isNaN, hb.not_isNaN, ha.scaled_eq, hb.scaled_eq]

/-- IEEE `>` and `==` exclude each other, whatever the operands. -/
theorem F64.eqv_eq_false_of_gt {a b : F64} (h : a.gt b = true) : a.eqv b = false := by
  simp only [F64.gt, Bool.and_eq_true, decide_eq_true_eq] at h
  obtain ⟨-, hlt⟩ := h
  simp [F64.eqv, hlt.ne']

theorem F64.eqv_eq_false_of_lt {a b : F64} (h : b.gt a = true) : a.eqv b = false := by
  simp only [F64.gt, Bool.and_eq_true, decide_eq_true_eq] at h
  obtain ⟨-, hlt⟩ := h
  simp [F64.eqv, hlt.ne]

/-! ### Rounding -/

/-- How many low bits `F64.roundMag` drops. -/
def F64.dropped (N k : Nat) : Nat := max (N.log2 + 1 - 53) k

/-- `N / 2^d`, rounded to nearest, ties to even. -/
def F64.roundQuot (d N : Nat) : Nat :=
  if decide (2 ^ d < 2 * (N % 2 ^ d)) || (decide (2 * (N % 2 ^ d) = 2 ^ d) && decide (N / 2 ^ d % 2 = 1))
  then N / 2 ^ d + 1 else N / 2 ^ d

theorem F64.roundMag_eq (N k : Nat) :
    F64.roundMag N k
      = min ((F64.dropped N k - k) * 2 ^ 52 + F64.roundQuot (F64.dropped N k) N) (2047 * 2 ^ 52) := rfl

theorem F64.roundMag_le_infinity (N k : Nat) : F64.roundMag N k ≤ 2047 * 2 ^ 52 := Nat.min_le_right _ _

theorem F64.div_le_roundQuot (d N : Nat) : N / 2 ^ d ≤ F64.roundQuot d N := by
  unfold F64.roundQuot
  split <;> omega

theorem F64.roundQuot_le_div_succ (d N : Nat) : F64.roundQuot d N ≤ N / 2 ^ d + 1 := by
  unfold F64.roundQuot
  split <;> omega

/-- Rounding at one place is monotone: the quotient decides, and of two equal quotients the larger remainder. -/
theorem F64.roundQuot_mono (d : Nat) {N M : Nat} (h : N ≤ M) : F64.roundQuot d N ≤ F64.roundQuot d M := by
  obtain hlt | heq := (Nat.div_le_div_right (c := 2 ^ d) h).lt_or_eq
  · calc F64.roundQuot d N ≤ N / 2 ^ d + 1 := F64.roundQuot_le_div_succ d N
      _ ≤ M / 2 ^ d := hlt
      _ ≤ F64.roundQuot d M := F64.div_le_roundQuot d M
  · have hrem : N % 2 ^ d ≤ M % 2 ^ d := by
      have hN := Nat.div_add_mod N (2 ^ d)
      have hM := Nat.div_add_mod M (2 ^ d)
      rw [heq] at hN
      omega
    simp only [F64.roundQuot, heq, Bool.or_eq_true, Bool.and_eq_true, decide_eq_true_eq]
    split <;> split <;> omega

theorem F64.dropped_mono (k : Nat) {N M : Nat} (h : N ≤ M) : F64.dropped N k ≤ F64.dropped M k := by
  have hlog : N.log2 ≤ M.log2 := by
    simpa only [Nat.log2_eq_log_two] using Nat.log_mono_right h
  unfold F64.dropped
  omega

/-- At most 53 bits are kept, so the rounded quotient is at most `2^53`. -/
theorem F64.roundQuot_dropped_le (N k : Nat) : F64.roundQuot (F64.dropped N k) N ≤ 2 ^ 53 := by
  have hlt : N < 2 ^ 53 * 2 ^ F64.dropped N k := by
    calc N < 2 ^ (N.log2 + 1) := Nat.lt_log2_self
      _ ≤ 2 ^ (53 + F64.dropped N k) :=
          Nat.pow_le_pow_right (by decide) (by unfold F64.dropped; omega)
      _ = 2 ^ 53 * 2 ^ F64.dropped N k := pow_add _ _ _
  exact (F64.roundQuot_le_div_succ _ _).trans ((Nat.div_lt_iff_lt_mul (by positivity)).mpr hlt)

/-- Where more than `k` bits are dropped, all 53 are kept, so the rounded quotient is at least `2^52`. -/
theorem F64.le_roundQuot_dropped {N k : Nat} (h : k < F64.dropped N k) :
    2 ^ 52 ≤ F64.roundQuot (F64.dropped N k) N := by
  have hlog : N.log2 = 52 + F64.dropped N k := by
    unfold F64.dropped at h ⊢
    omega
  have hne : N ≠ 0 := by
    rintro rfl
    rw [Nat.log2_zero] at hlog
    omega
  have hle : 2 ^ 52 * 2 ^ F64.dropped N k ≤ N := by
    rw [← pow_add, ← hlog]
    exact Nat.log2_self_le hne
  exact ((Nat.le_div_iff_mul_le (by positivity)).mpr hle).trans (F64.div_le_roundQuot _ _)

/-- The rounding of R10 is monotone. Between two binades it is so because the lower one rounds to the least value of the
next at most. -/
theorem F64.roundMag_mono (k : Nat) {N M : Nat} (h : N ≤ M) : F64.roundMag N k ≤ F64.roundMag M k := by
  rw [F64.roundMag_eq, F64.roundMag_eq]
  refine min_le_min_right _ ?_
  have hk : k ≤ F64.dropped N k := Nat.le_max_right _ _
  obtain hlt | heq := (F64.dropped_mono k h).lt_or_eq
  · have hN := F64.roundQuot_dropped_le N k
    have hM := F64.le_roundQuot_dropped (hk.trans_lt hlt)
    omega
  · rw [heq]
    exact Nat.add_le_add_left (F64.roundQuot_mono _ h) _

theorem F64.toNat_pack_roundMag (N k : Nat) : (F64.pack false (F64.roundMag N k)).toNat = F64.roundMag N k := by
  have hle := F64.roundMag_le_infinity N k
  simp only [F64.pack, Bool.false_eq_true, if_false, BitVec.toNat_ofNat]
  omega

end Sys2Proof
end

section
/-! The luma (R112) and the reference `LUM_POW` (R113): the root search finds the greatest root, so the reference is
monotone. -/

namespace Sys2Proof.Machine

/-! ### The luma -/

theorem y1000_mono {r g b r' g' b' : Nat} (hr : r ≤ r') (hg : g ≤ g') (hb : b ≤ b') : y1000 r g b ≤ y1000 r' g' b' := by
  unfold y1000
  omega

theorem y1000_le_white {r g b : Nat} (hr : r ≤ 255) (hg : g ≤ 255) (hb : b ≤ 255) : y1000 r g b ≤ 255000 :=
  y1000_mono hr hg hb

theorem y1000_black : y1000 0 0 0 = 0 := rfl
theorem y1000_white : y1000 255 255 255 = 255000 := rfl

theorem y1000_gray (v : Nat) : y1000 v v v = 1000 * v := by
  unfold y1000
  omega

/-! ### The root search -/

/-- `a` is at most the real root `(y/255000)^(5/11) · 2^63` (R113): the test of `rootBits`. -/
def BelowRoot (y a : Nat) : Prop := a ^ 11 * 255000 ^ 5 ≤ y ^ 5 * 2 ^ 693

theorem BelowRoot.of_le {y a b : Nat} (h : BelowRoot y b) (hab : a ≤ b) : BelowRoot y a :=
  (Nat.mul_le_mul_right _ (Nat.pow_le_pow_left hab _)).trans h

theorem BelowRoot.mono {y z a : Nat} (h : BelowRoot y a) (hyz : y ≤ z) : BelowRoot z a :=
  h.trans (Nat.mul_le_mul_right _ (Nat.pow_le_pow_left hyz _))

theorem belowRoot_zero (y : Nat) : BelowRoot y 0 := by
  rw [BelowRoot, zero_pow (by decide), Nat.zero_mul]
  exact Nat.zero_le _

theorem rootBits_succ_of_belowRoot {y n acc : Nat} (h : BelowRoot y (acc + 2 ^ n)) :
    rootBits y (n + 1) acc = rootBits y n (acc + 2 ^ n) := by
  unfold BelowRoot at h
  rw [rootBits, if_pos h]

theorem rootBits_succ_of_not_belowRoot {y n acc : Nat} (h : ¬ BelowRoot y (acc + 2 ^ n)) :
    rootBits y (n + 1) acc = rootBits y n acc := by
  unfold BelowRoot at h
  rw [rootBits, if_neg h]

/-- From a start below the root, the search of `n` bits ends at the greatest value below the root it can reach. -/
theorem rootBits_isGreatest {y n acc : Nat} (hacc : BelowRoot y acc) :
    IsGreatest {m | m < acc + 2 ^ n ∧ BelowRoot y m} (rootBits y n acc) := by
  induction n generalizing acc with
  | zero => exact ⟨⟨Nat.lt_succ_self acc, hacc⟩, fun m hm => Nat.le_of_lt_succ hm.1⟩
  | succ n ih =>
    have hpow : acc + 2 ^ (n + 1) = acc + 2 ^ n + 2 ^ n := by rw [pow_succ]; omega
    rw [hpow]
    by_cases hbit : BelowRoot y (acc + 2 ^ n)
    · rw [rootBits_succ_of_belowRoot hbit]
      exact ih hbit
    · rw [rootBits_succ_of_not_belowRoot hbit]
      obtain ⟨⟨hlt, hroot⟩, hmax⟩ := ih hacc
      refine ⟨⟨hlt.trans_le (Nat.le_add_right _ _), hroot⟩, fun m ⟨_, hm⟩ => hmax ⟨?_, hm⟩⟩
      by_contra hge
      exact hbit (hm.of_le (Nat.le_of_not_lt hge))

theorem scaledRoot_isGreatest (y : Nat) : IsGreatest {m | m < 2 ^ 64 ∧ BelowRoot y m} (scaledRoot y) := by
  simpa only [scaledRoot, Nat.zero_add] using rootBits_isGreatest (n := 64) (belowRoot_zero y)

theorem scaledRoot_mono {y z : Nat} (h : y ≤ z) : scaledRoot y ≤ scaledRoot z := by
  obtain ⟨⟨hlt, hroot⟩, -⟩ := scaledRoot_isGreatest y
  exact (scaledRoot_isGreatest z).2 ⟨hlt, hroot.mono h⟩

/-! ### The reference -/

/-- `a` is the real root itself: the test of the sticky bit of `lumPowRef`. -/
def ExactRoot (y a : Nat) : Prop := a ^ 11 * 255000 ^ 5 = y ^ 5 * 2 ^ 693

/-- What is at most the smaller root and equals the larger one equals both. -/
theorem ExactRoot.of_belowRoot {y z a : Nat} (hz : ExactRoot z a) (hy : BelowRoot y a) (hyz : y ≤ z) : ExactRoot y a :=
  Nat.le_antisymm hy ((Nat.mul_le_mul_right _ (Nat.pow_le_pow_left hyz _)).trans_eq hz.symm)

/-- What `lumPowRef` rounds, in units of 2^-64: twice the root, and one more where the root is not exact. -/
def stickyRoot (y : Nat) : Nat :=
  2 * scaledRoot y + if scaledRoot y ^ 11 * 255000 ^ 5 = y ^ 5 * 2 ^ 693 then 0 else 1

theorem lumPowRef_eq (y : Nat) : lumPowRef y = F64.pack false (F64.roundMag (stickyRoot y * 2 ^ 1010) 0) := rfl

theorem stickyRoot_of_exactRoot {y : Nat} (h : ExactRoot y (scaledRoot y)) : stickyRoot y = 2 * scaledRoot y := by
  unfold ExactRoot at h
  rw [stickyRoot, if_pos h, Nat.add_zero]

theorem stickyRoot_of_not_exactRoot {y : Nat} (h : ¬ ExactRoot y (scaledRoot y)) :
    stickyRoot y = 2 * scaledRoot y + 1 := by
  unfold ExactRoot at h
  rw [stickyRoot, if_neg h]

/-- Of two luminances with one root, the smaller is exact if the larger is. -/
theorem exactRoot_of_le {y z : Nat} (hyz : y ≤ z) (hroot : scaledRoot y = scaledRoot z)
    (hz : ExactRoot z (scaledRoot z)) : ExactRoot y (scaledRoot y) := by
  rw [← hroot] at hz
  obtain ⟨⟨-, hbelow⟩, -⟩ := scaledRoot_isGreatest y
  exact hz.of_belowRoot hbelow hyz

theorem stickyRoot_mono {y z : Nat} (h : y ≤ z) : stickyRoot y ≤ stickyRoot z := by
  have hroot := scaledRoot_mono h
  by_cases hy : ExactRoot y (scaledRoot y) <;> by_cases hz : ExactRoot z (scaledRoot z)
  · rw [stickyRoot_of_exactRoot hy, stickyRoot_of_exactRoot hz]
    omega
  · rw [stickyRoot_of_exactRoot hy, stickyRoot_of_not_exactRoot hz]
    omega
  · have hne : scaledRoot y ≠ scaledRoot z := fun heq => hy (exactRoot_of_le h heq hz)
    rw [stickyRoot_of_not_exactRoot hy, stickyRoot_of_exactRoot hz]
    omega
  · rw [stickyRoot_of_not_exactRoot hy, stickyRoot_of_not_exactRoot hz]
    omega

theorem lumPowRef_nonneg (y : Nat) : (lumPowRef y).nonneg := by
  rw [lumPowRef_eq, F64.nonneg, F64.toNat_pack_roundMag]
  exact F64.roundMag_le_infinity _ _

theorem lumPowRef_toNat_mono {y z : Nat} (h : y ≤ z) : (lumPowRef y).toNat ≤ (lumPowRef z).toNat := by
  simp only [lumPowRef_eq, F64.toNat_pack_roundMag]
  exact F64.roundMag_mono 0 (Nat.mul_le_mul_right _ (stickyRoot_mono h))

theorem lumPowRef_mono {y z : Nat} (h : y ≤ z) : (lumPowRef y).le (lumPowRef z) = true :=
  (F64.le_iff (lumPowRef_nonneg y) (lumPowRef_nonneg z)).mpr (lumPowRef_toNat_mono h)

-- The endpoints of R115 and the two values beside the threshold of R116.
theorem lumPowRef_black : lumPowRef 0 = F64.zero := by decide +kernel
theorem lumPowRef_white : lumPowRef 255000 = F64.one := by decide +kernel
theorem lumPowRef_belowThreshold : lumPowRef 55497 = 0x3fdffff5b8aec783#64 := by decide +kernel
theorem lumPowRef_atThreshold : lumPowRef 55498 = 0x3fe0000372ed5dcb#64 := by decide +kernel

theorem zero_le_lumPowRef (y : Nat) : F64.zero.le (lumPowRef y) = true :=
  lumPowRef_black ▸ lumPowRef_mono (Nat.zero_le y)

theorem lumPowRef_le_one {y : Nat} (h : y ≤ 255000) : (lumPowRef y).le F64.one = true :=
  lumPowRef_white ▸ lumPowRef_mono h

theorem lumPowRef_gt_half {y : Nat} (h : 55498 ≤ y) : (lumPowRef y).gt F64.half = true := by
  rw [F64.gt_iff (lumPowRef_nonneg y) F64.nonneg_half]
  calc F64.half.toNat < (lumPowRef 55498).toNat := by rw [lumPowRef_atThreshold]; decide
    _ ≤ (lumPowRef y).toNat := lumPowRef_toNat_mono h

theorem half_gt_lumPowRef {y : Nat} (h : y < 55498) : F64.half.gt (lumPowRef y) = true := by
  rw [F64.gt_iff F64.nonneg_half (lumPowRef_nonneg y)]
  calc (lumPowRef y).toNat ≤ (lumPowRef 55497).toNat := lumPowRef_toNat_mono (Nat.le_of_lt_succ h)
    _ < F64.half.toNat := by rw [lumPowRef_belowThreshold]; decide

theorem lumPowRef_gt_half_iff (y : Nat) : (lumPowRef y).gt F64.half = true ↔ 55498 ≤ y := by
  refine ⟨fun h => ?_, lumPowRef_gt_half⟩
  by_contra hlt
  have hbelow := half_gt_lumPowRef (Nat.lt_of_not_le hlt)
  rw [F64.gt_iff (lumPowRef_nonneg y) F64.nonneg_half] at h
  rw [F64.gt_iff F64.nonneg_half (lumPowRef_nonneg y)] at hbelow
  exact h.asymm hbelow

theorem lumPowRef_ne_half (y : Nat) : (lumPowRef y).eqv F64.half = false := by
  obtain hlt | hge := Nat.lt_or_ge y 55498
  · exact F64.eqv_eq_false_of_lt (half_gt_lumPowRef hlt)
  · exact F64.eqv_eq_false_of_gt (lumPowRef_gt_half hge)

/-- An empty table of differences leaves the reference itself. -/
@[simp] theorem lumPow_reference (y : Nat) : lumPow Params.reference y = lumPowRef y := rfl

/-! ### The quantizer -/

theorem quantize_eq_one_iff (v : F64) : quantize v = F64.one ↔ v.gt F64.half = true := by
  unfold quantize
  split <;> simp_all [F64.one, F64.zero]

theorem quantize_eq_zero_iff (v : F64) : quantize v = F64.zero ↔ ¬ v.gt F64.half = true := by
  unfold quantize
  split <;> simp_all [F64.one, F64.zero]

end Sys2Proof.Machine

namespace Sys2Proof.Proofs

open Sys2Proof.Machine

/-- Settles O2, by linear arithmetic: every coefficient of the luma is positive. -/
theorem lumaIsExactAndStrictlyIncreasing : Obligations.LumaIsExactAndStrictlyIncreasing := by
  refine ⟨fun _ _ _ => rfl, fun _ _ _ => y1000_le_white, ?_, ?_, ?_⟩
  all_goals
    intros
    unfold y1000
    omega

/-- Settles O5: the greatest root, its sticky bit and the rounding are each monotone, so the range follows from the two
endpoints. -/
theorem referenceLuminanceMonotoneInRange : Obligations.ReferenceLuminanceMonotoneInRange := by
  unfold Obligations.ReferenceLuminanceMonotoneInRange
  simp only [lumPow_reference, Bool.and_eq_true, y1000_black, y1000_white]
  exact ⟨fun r g b r' g' b' hr hg hb _ _ _ => lumPowRef_mono (y1000_mono hr hg hb),
    fun r g b hr hg hb => ⟨zero_le_lumPowRef _, lumPowRef_le_one (y1000_le_white hr hg hb)⟩,
    lumPowRef_black, lumPowRef_white⟩

/-- Settles O7: the reference is monotone, and its values at 55497 and 55498 lie on the two sides of 0.5. -/
theorem referenceThresholdIs55498 : Obligations.ReferenceThresholdIs55498 := by
  refine ⟨fun y _ => lumPowRef_gt_half_iff y, fun y _ => lumPowRef_ne_half y, lumPowRef_belowThreshold,
    lumPowRef_atThreshold, fun v _ => ?_⟩
  rw [quantize_eq_one_iff, quantize_eq_zero_iff, lumPowRef_gt_half_iff, y1000_gray]
  omega

end Sys2Proof.Proofs
end

section
/-! The geometry of RESAMPLE (R131 to R136). A `Ratio` is tied to its value in ℚ, and the model's quotients of naturals to
floors of that value; the closed forms come from the two cases of `scale`. -/

namespace Sys2Proof.Machine

/-! ### Ratios and their floors -/

/-- The rational a `Ratio` stands for. -/
def Ratio.toRat (q : Ratio) : ℚ := q.num / q.den

theorem Ratio.floorMul_eq_floor (q : Ratio) (n : Nat) : q.floorMul n = ⌊(n : ℚ) * q.toRat⌋₊ := by
  rw [Ratio.floorMul, Ratio.toRat, ← mul_div_assoc, ← Nat.cast_mul, Nat.floor_div_eq_div]

theorem Ratio.floorDiv_eq_floor (q : Ratio) (n : Nat) : q.floorDiv n = ⌊(n : ℚ) / q.toRat⌋₊ := by
  rw [Ratio.floorDiv, Ratio.toRat, div_div_eq_mul_div, ← Nat.cast_mul, Nat.floor_div_eq_div]

/-- What lies below `floor(k · q)` is taken below `k` by division by `q`. -/
theorem Ratio.floorDiv_lt_of_lt_floorMul {q : Ratio} {n k : Nat} (h : n < q.floorMul k) : q.floorDiv n < k := by
  by_contra hge
  have hmul : k * q.num ≤ n * q.den := Nat.mul_le_of_le_div q.num k _ (Nat.le_of_not_lt hge)
  exact Nat.not_lt.mpr (Nat.div_le_of_le_mul (Nat.mul_comm n q.den ▸ hmul)) h

/-! ### The scale (R131) -/

theorem scale_of_le {w m : Nat} (h : w ≤ m) : scale w m = ⟨1, 1⟩ := if_neg (Nat.not_lt.mpr h)

theorem scale_of_lt {w m : Nat} (h : m < w) : scale w m = ⟨m, w⟩ := if_pos h

theorem scale_toRat {w : Nat} (m : Nat) (hw : 0 < w) : (scale w m).toRat = min 1 ((m : ℚ) / w) := by
  have hw' : (0 : ℚ) < w := Nat.cast_pos.mpr hw
  obtain hle | hlt := le_or_gt w m
  · have hone : (1 : ℚ) ≤ m / w := (one_le_div hw').mpr (Nat.cast_le.mpr hle)
    rw [scale_of_le hle, Ratio.toRat, Nat.cast_one, div_one, min_eq_left hone]
  · have hone : (m : ℚ) / w ≤ 1 := (div_le_one hw').mpr (Nat.cast_le.mpr hlt.le)
    rw [scale_of_lt hlt, Ratio.toRat, min_eq_right hone]

theorem scale_floorMul_of_le {w m : Nat} (n : Nat) (h : w ≤ m) : (scale w m).floorMul n = n := by
  rw [scale_of_le h, Ratio.floorMul, Nat.mul_one, Nat.div_one]

theorem scale_floorMul_of_lt {w m : Nat} (n : Nat) (h : m < w) : (scale w m).floorMul n = n * m / w := by
  rw [scale_of_lt h, Ratio.floorMul]

theorem scale_floorDiv_of_le {w m : Nat} (n : Nat) (h : w ≤ m) : (scale w m).floorDiv n = n := by
  rw [scale_of_le h, Ratio.floorDiv, Nat.mul_one, Nat.div_one]

theorem scale_floorDiv_of_lt {w m : Nat} (n : Nat) (h : m < w) : (scale w m).floorDiv n = n * w / m := by
  rw [scale_of_lt h, Ratio.floorDiv]

/-- The scaled width before its rounding to a multiple of 8 (R132). -/
theorem scale_floorMul_width {w : Nat} (m : Nat) (hw : 0 < w) : (scale w m).floorMul w = min w m := by
  obtain hle | hlt := le_or_gt w m
  · rw [scale_floorMul_of_le w hle, Nat.min_eq_left hle]
  · rw [scale_floorMul_of_lt w hlt, Nat.mul_div_cancel_left m hw, Nat.min_eq_right hlt.le]

/-! ### Destination sizes (R132, R133) -/

theorem destWidth_eq {w : Nat} (m : Nat) (hw : 0 < w) :
    destWidth w m = if min w m - min w m % 8 = 0 then 8 else min w m - min w m % 8 := by
  rw [destWidth, scale_floorMul_width m hw]

theorem destWidth_pos (w m : Nat) : 0 < destWidth w m := by
  unfold destWidth
  dsimp only
  split <;> omega

theorem destWidth_of_lt {w m : Nat} (hw : 0 < w) (h : w < 8 ∨ m < 8) : destWidth w m = 8 := by
  have hsmall : min w m < 8 := min_lt_iff.mpr h
  rw [destWidth_eq m hw, Nat.mod_eq_of_lt hsmall, Nat.sub_self, if_pos rfl]

/-- Where the width was not clamped up to 8, rounding only lowers it. -/
theorem destWidth_le {w m : Nat} (hw : 8 ≤ w) (hm : 8 ≤ m) : destWidth w m ≤ min w m := by
  have hmin : 8 ≤ min w m := le_min hw hm
  rw [destWidth_eq m (Nat.lt_of_lt_of_le (by decide) hw)]
  split
  · exact hmin
  · exact Nat.sub_le _ _

theorem destHeight_of_le {w m : Nat} (h : Nat) (hle : w ≤ m) : destHeight w h m = h := scale_floorMul_of_le h hle

theorem destHeight_of_lt {w m : Nat} (h : Nat) (hlt : m < w) : destHeight w h m = h * m / w :=
  scale_floorMul_of_lt h hlt

theorem destHeight_eq_zero_iff {w h m : Nat} (hw : 0 < w) (hh : 0 < h) :
    destHeight w h m = 0 ↔ m < w ∧ h * m < w := by
  obtain hle | hlt := le_or_gt w m
  · rw [destHeight_of_le h hle]
    omega
  · rw [destHeight_of_lt h hlt, Nat.div_eq_zero_iff]
    omega

/-! ### Source indices (R134, R135) -/

theorem srcX_of_le {w m : Nat} (x : Nat) (h : w ≤ m) : srcX w m x = min x (w - 1) := by
  rw [srcX, scale_floorDiv_of_le x h]

theorem srcX_of_lt {w m : Nat} (x : Nat) (h : m < w) : srcX w m x = min (x * w / m) (w - 1) := by
  rw [srcX, scale_floorDiv_of_lt x h]

/-- At scale 1 a destination row is its own source row: it lies inside the image already. -/
theorem srcY_of_le {w h m y : Nat} (hle : w ≤ m) (hy : y < destHeight w h m) : srcY w h m y = y := by
  rw [destHeight_of_le h hle] at hy
  rw [srcY, scale_floorDiv_of_le y hle, Nat.min_eq_left (Nat.le_sub_one_of_lt hy)]

theorem srcY_of_lt {w m : Nat} (h y : Nat) (hlt : m < w) : srcY w h m y = min (y * w / m) (h - 1) := by
  rw [srcY, scale_floorDiv_of_lt y hlt]

/-- The unclamped source column of an image and a `max_width` of 8 or more lies inside the image. -/
theorem scale_floorDiv_lt_width {w m x : Nat} (hw : 8 ≤ w) (hm : 8 ≤ m) (hx : x < destWidth w m) :
    (scale w m).floorDiv x < w := by
  have hw0 : 0 < w := Nat.lt_of_lt_of_le (by decide) hw
  refine Ratio.floorDiv_lt_of_lt_floorMul ?_
  calc x < destWidth w m := hx
    _ ≤ min w m := destWidth_le hw hm
    _ = (scale w m).floorMul w := (scale_floorMul_width m hw0).symm

end Sys2Proof.Machine

namespace Sys2Proof.Proofs

open Sys2Proof.Machine

/-- Settles O10: the model's quotients are floors of products with the rational scale, and each closed form is one of its two
cases. -/
theorem destinationSizeIsExactRational : Obligations.DestinationSizeIsExactRational := by
  intro w h m hw hh
  have hscale := scale_toRat m hw
  refine ⟨⟨by positivity, min_le_left _ _⟩, ?_, destWidth_eq m hw, ⟨destWidth_pos w m, destWidth_mod w m⟩,
    destWidth_of_lt hw, ?_, destHeight_of_le h, destHeight_of_lt h, destHeight_eq_zero_iff hw hh⟩
  · rw [← hscale, ← Ratio.floorMul_eq_floor, scale_floorMul_width m hw]
  · rw [← hscale, ← Ratio.floorMul_eq_floor, destHeight]

/-- Settles O11: the model's quotients are floors of quotients by the rational scale, and dividing by the scale takes a column
below the unrounded width `floor(w * scale)` back inside the image. -/
theorem sourceIndicesAreExactRational : Obligations.SourceIndicesAreExactRational := by
  refine ⟨fun w h m x y hw _ _ hx hy => ?_, fun w h hw => ?_⟩
  · rw [← scale_toRat m hw, ← Ratio.floorDiv_eq_floor, ← Ratio.floorDiv_eq_floor]
    exact ⟨rfl, rfl, fun hle => ⟨srcX_of_le x hle, srcY_of_le hle hy⟩, fun hlt => ⟨srcX_of_lt x hlt, srcY_of_lt h y hlt⟩,
      fun hw8 hm8 => Nat.le_sub_one_of_lt (scale_floorDiv_lt_width hw8 hm8 hx)⟩
  · rw [destHeight_of_lt h hw, Nat.mul_zero, Nat.zero_div]

end Sys2Proof.Proofs
end

section
/-! Rounding a value that binary64 holds exactly gives that value back, so a product with a constant of magnitude at most 1.0
does not exceed its other factor (R160). -/

namespace Sys2Proof

/-! ### Magnitudes -/

/-- The magnitude does not read the sign bit. -/
theorem F64.mag_eq_of_low_eq {a b : F64} (h : a.toNat % 2 ^ 63 = b.toNat % 2 ^ 63) : a.mag = b.mag := by
  have hexp : a.expField = b.expField := by
    unfold F64.expField
    omega
  have hfrac : a.frac = b.frac := by
    unfold F64.frac
    omega
  rw [F64.mag, F64.mag, hexp, hfrac]

theorem F64.isFinite_iff (a : F64) : a.isFinite = true ↔ a.expField ≠ 2047 := by
  simp [F64.isFinite]

theorem F64.toNat_pack_mod (neg : Bool) {m : Nat} (h : m < 2 ^ 63) : (F64.pack neg m).toNat % 2 ^ 63 = m := by
  rw [F64.pack, BitVec.toNat_ofNat]
  split <;> omega

/-- The datum with its sign bit cleared. -/
def F64.clearSign (a : F64) : F64 := F64.pack false (a.toNat % 2 ^ 63)

theorem F64.toNat_clearSign (a : F64) : a.clearSign.toNat = a.toNat % 2 ^ 63 := by
  simp only [F64.clearSign, F64.pack, Bool.false_eq_true, if_false, BitVec.toNat_ofNat]
  omega

theorem F64.mag_clearSign (a : F64) : a.clearSign.mag = a.mag :=
  F64.mag_eq_of_low_eq (F64.toNat_pack_mod false (Nat.mod_lt _ (by decide)))

theorem F64.nonneg_clearSign {a : F64} (h : a.isFinite = true) : a.clearSign.nonneg := by
  have hexp := (F64.isFinite_iff a).1 h
  unfold F64.expField at hexp
  rw [F64.nonneg, F64.toNat_clearSign]
  omega

/-- Whatever the signs, the magnitude grows with the 63 low bits. -/
theorem F64.mag_le_of_low_le {a b : F64} (hb : b.isFinite = true) (h : a.toNat % 2 ^ 63 ≤ b.toNat % 2 ^ 63) :
    a.mag ≤ b.mag := by
  rw [← F64.mag_clearSign a, ← F64.mag_clearSign b]
  rw [← F64.toNat_clearSign, ← F64.toNat_clearSign] at h
  obtain hlt | heq := h.lt_or_eq
  · exact (F64.mag_lt_of_toNat_lt (F64.nonneg_clearSign hb) hlt).le
  · rw [BitVec.eq_of_toNat_eq heq]

/-! ### Exact rounding -/

theorem F64.roundQuot_mul_two_pow (d m : Nat) : F64.roundQuot d (m * 2 ^ d) = m := by
  have hpos : 0 < 2 ^ d := by positivity
  simp [F64.roundQuot, Nat.mul_div_cancel _ hpos, hpos.ne]

/-- A subnormal significand, in units of the last place kept, rounds to itself. -/
theorem F64.roundMag_subnormal {m : Nat} (k : Nat) (h : m < 2 ^ 52) : F64.roundMag (m * 2 ^ k) k = m := by
  have hdropped : F64.dropped (m * 2 ^ k) k = k := by
    obtain rfl | hm := Nat.eq_zero_or_pos m
    · simp [F64.dropped]
    · have hlog : (m * 2 ^ k).log2 < 52 + k := by
        rw [Nat.log2_lt (by positivity), pow_add]
        exact Nat.mul_lt_mul_of_pos_right h (by positivity)
      unfold F64.dropped
      omega
  rw [F64.roundMag_eq, hdropped, F64.roundQuot_mul_two_pow]
  omega

/-- A significand of 53 bits, `e` places up, rounds to itself. -/
theorem F64.roundMag_normal {m : Nat} (e k : Nat) (hlo : 2 ^ 52 ≤ m) (hhi : m < 2 ^ 53) (he : e < 2046) :
    F64.roundMag (m * 2 ^ (e + k)) k = e * 2 ^ 52 + m := by
  have hdropped : F64.dropped (m * 2 ^ (e + k)) k = e + k := by
    have hlog : (m * 2 ^ (e + k)).log2 = 52 + (e + k) := by
      rw [Nat.log2_eq_iff (by positivity), add_right_comm 52, pow_add 2 52, pow_add 2 (52 + 1)]
      exact ⟨Nat.mul_le_mul_right _ hlo, Nat.mul_lt_mul_of_pos_right hhi (by positivity)⟩
    unfold F64.dropped
    omega
  rw [F64.roundMag_eq, hdropped, F64.roundQuot_mul_two_pow, Nat.add_sub_cancel]
  omega

/-- The magnitude of a finite datum rounds to that datum's own bits. -/
theorem F64.roundMag_mag {a : F64} (k : Nat) (ha : a.isFinite = true) :
    F64.roundMag (a.mag * 2 ^ k) k = a.toNat % 2 ^ 63 := by
  have hexp := (F64.isFinite_iff a).1 ha
  have hbits : a.toNat % 2 ^ 63 = a.expField * 2 ^ 52 + a.frac := by
    unfold F64.expField F64.frac
    omega
  have hexp_lt : a.expField < 2048 := Nat.mod_lt _ (by decide)
  have hfrac : a.frac < 2 ^ 52 := Nat.mod_lt _ (by decide)
  rw [hbits, F64.mag]
  split
  next hsub => rw [F64.roundMag_subnormal k hfrac, hsub, Nat.zero_mul, Nat.zero_add]
  next hnormal =>
    rw [mul_assoc, ← pow_add, F64.roundMag_normal _ k (by omega) (by omega) (by omega)]
    omega

/-! ### Products -/

theorem F64.not_isNaN_of_isFinite {a : F64} (h : a.isFinite = true) : a.isNaN = false := by
  simp [F64.isNaN, (F64.isFinite_iff a).1 h]

theorem F64.mul_of_isFinite {a b : F64} (ha : a.isFinite = true) (hb : b.isFinite = true) :
    a.mul b = F64.pack (a.neg? != b.neg?) (F64.roundMag (a.mag * b.mag) 1074) := by
  simp [F64.mul, ha, hb, F64.not_isNaN_of_isFinite]

theorem F64.mag_one : F64.one.mag = 2 ^ 1074 := by decide +kernel

/-- A product with a factor of magnitude at most 1.0 does not exceed the other factor: rounding is monotone, and the other
factor rounds to itself. -/
theorem F64.mag_mul_le {e k : F64} (he : e.isFinite = true) (hk : k.isFinite = true) (hone : k.mag ≤ F64.one.mag) :
    (e.mul k).mag ≤ e.mag := by
  have hbits : F64.roundMag (e.mag * k.mag) 1074 < 2 ^ 63 := (F64.roundMag_le_infinity _ _).trans_lt (by decide)
  refine F64.mag_le_of_low_le he ?_
  rw [F64.mul_of_isFinite he hk, F64.toNat_pack_mod _ hbits]
  calc F64.roundMag (e.mag * k.mag) 1074
      ≤ F64.roundMag (e.mag * 2 ^ 1074) 1074 := F64.roundMag_mono _ (Nat.mul_le_mul_left _ (F64.mag_one ▸ hone))
    _ = e.toNat % 2 ^ 63 := F64.roundMag_mag 1074 he

end Sys2Proof
end

section
/-! The diffusion of an error (R154, R155): what one share changes, what the four shares of a pixel change, and that a uniform
raster without error stays as it is (R160). -/

namespace Sys2Proof.Machine

/-! ### Cells of a raster -/

theorem cellIndex_div {w x : Nat} (y : Nat) (hx : x < w) : (y * w + x) / w = y := by
  rw [Nat.mul_comm, Nat.mul_add_div (Nat.zero_lt_of_lt hx), Nat.div_eq_of_lt hx, Nat.add_zero]

theorem cellIndex_mod {w x : Nat} (y : Nat) (hx : x < w) : (y * w + x) % w = x := Nat.mul_add_mod_of_lt hx

theorem cellIndex_inj {w x y x' y' : Nat} (hx : x < w) (hx' : x' < w) :
    y * w + x = y' * w + x' ↔ y = y' ∧ x = x' := by
  refine ⟨fun h => ⟨?_, ?_⟩, fun ⟨hy, hx⟩ => by rw [hy, hx]⟩
  · rw [← cellIndex_div y hx, h, cellIndex_div y' hx']
  · rw [← cellIndex_mod y hx, h, cellIndex_mod y' hx']

theorem cellIndex_lt {w h x y : Nat} (hx : x < w) (hy : y < h) : y * w + x < w * h := by
  rw [Nat.mul_comm y, Nat.mul_comm w h]
  exact Nat.mul_add_lt_mul_of_lt_of_lt hy hx

theorem getD_set_cell {w x y tx ty : Nat} {work : List F64} (c : F64) (hx : x < w) (htx : tx < w)
    (hlen : ty * w + tx < work.length) :
    (work.set (ty * w + tx) c).getD (y * w + x) F64.zero =
      if y = ty ∧ x = tx then c else work.getD (y * w + x) F64.zero := by
  by_cases hcell : y = ty ∧ x = tx
  · obtain ⟨rfl, rfl⟩ := hcell
    simp [hlen]
  · have hne : ty * w + tx ≠ y * w + x := fun h => hcell ((cellIndex_inj hx htx).mp h.symm)
    simp [hcell, hne]

/-! ### One share -/

@[simp] theorem diffuse_length (w h : Nat) (err : F64) (tx : Int) (ty : Nat) (k : F64) (work : List F64) :
    (diffuse w h err tx ty k work).length = work.length := by
  unfold diffuse
  split
  · exact List.length_set
  · rfl

/-- A share changes its target alone, where the target lies inside the raster (R155). -/
theorem diffuse_getD {w h x y : Nat} {work : List F64} (err : F64) (tx : Int) (ty : Nat) (k : F64)
    (hlen : work.length = w * h) (hx : x < w) (hy : y < h) :
    (diffuse w h err tx ty k work).getD (y * w + x) F64.zero =
      if y = ty ∧ (x : Int) = tx then (work.getD (y * w + x) F64.zero).add (err.mul k)
      else work.getD (y * w + x) F64.zero := by
  unfold diffuse
  split
  next hinside =>
    obtain ⟨htx, htxw, hty⟩ := hinside
    lift tx to Nat using htx
    rw [Int.toNat_natCast, getD_set_cell _ hx (by omega) (hlen ▸ cellIndex_lt (by omega) hty)]
    simp only [Nat.cast_inj]
    exact if_ctx_congr Iff.rfl (fun ⟨hrow, hcol⟩ => by rw [hrow, hcol]) (fun _ => rfl)
  next houtside => rw [if_neg (by omega)]

/-! ### The four shares of a pixel -/

@[simp] theorem diffuseAll_length (w h : Nat) (err : F64) (x y : Nat) (work : List F64) :
    (diffuseAll w h err x y work).length = work.length := by
  simp [diffuseAll]

/-- The four targets differ, so a cell gains one share at most (R154). -/
theorem diffuseAll_getD {w h tx ty : Nat} {work : List F64} (err : F64) (x y : Nat)
    (hlen : work.length = w * h) (htx : tx < w) (hty : ty < h) :
    (diffuseAll w h err x y work).getD (ty * w + tx) F64.zero =
      (let old := work.getD (ty * w + tx) F64.zero
       if ty = y ∧ tx = x + 1 then old.add (err.mul F64.k7)
       else if ty = y + 1 ∧ tx + 1 = x then old.add (err.mul F64.k3)
       else if ty = y + 1 ∧ tx = x then old.add (err.mul F64.k5)
       else if ty = y + 1 ∧ tx = x + 1 then old.add (err.mul F64.k1)
       else old) := by
  have hright : (tx : Int) = (x : Int) + 1 ↔ tx = x + 1 := by omega
  have hleft : (tx : Int) = (x : Int) - 1 ↔ tx + 1 = x := by omega
  simp only [diffuseAll, diffuse_getD _ _ _ _ _ htx hty, diffuse_length, hlen, hright, hleft, Nat.cast_inj]
  by_cases hrow : ty = y
  · simp [hrow]
  by_cases hnext : ty = y + 1
  · obtain hcol | hcol | hcol | ⟨hl, hm, hr⟩ :
        tx + 1 = x ∨ tx = x ∨ tx = x + 1 ∨ tx + 1 ≠ x ∧ tx ≠ x ∧ tx ≠ x + 1 := by omega
    · simp [hnext, ← hcol, Nat.add_assoc]
    · simp [hnext, hcol]
    · simp [hnext, hcol, Nat.add_assoc]
    · simp [hnext, hl, hm, hr]
  · simp [hrow, hnext]

theorem ditherPixel_work (w h : Nat) (sc : Scan) (i : Nat) :
    (ditherPixel w h sc i).work =
      diffuseAll w h ((sc.work.getD i F64.zero).sub (quantize (sc.work.getD i F64.zero))) (i % w) (i / w) sc.work := rfl

theorem ditherScan_work_length (raster : GrayscaleRaster) (n : Nat) :
    (ditherScan raster n).work.length = raster.samples.length := by
  induction n with
  | zero => rfl
  | succ n ih => rw [ditherScan_succ, ditherPixel_work, diffuseAll_length, ih]

theorem GrayscaleRaster.ok_iff (g : GrayscaleRaster) :
    g.ok = true ↔ g.samples.length = g.width * g.height ∧ ∀ v ∈ g.samples, v.isIntensity = true := by
  simp [GrayscaleRaster.ok]

/-! ### Uniform rasters -/

/-- A share of no error leaves a list of one value that absorbs +0.0. -/
theorem diffuse_replicate {v err k : F64} (hshare : v.add (err.mul k) = v) (w h n : Nat) (tx : Int) (ty : Nat) :
    diffuse w h err tx ty k (List.replicate n v) = List.replicate n v := by
  unfold diffuse
  split
  · obtain hlt | hge := Nat.lt_or_ge (ty * w + tx.toNat) n
    · rw [List.getD_replicate _ hlt, hshare, List.set_replicate_self]
    · exact List.set_eq_of_length_le (by rwa [List.length_replicate])
  · rfl

theorem diffuseAll_zero_replicate {v : F64} (hv : v.add F64.zero = v) (w h n x y : Nat) :
    diffuseAll w h F64.zero x y (List.replicate n v) = List.replicate n v := by
  have hshare {k : F64} (hk : F64.zero.mul k = F64.zero) : v.add (F64.zero.mul k) = v := by rw [hk, hv]
  rw [diffuseAll, diffuse_replicate (hshare (by decide +kernel)), diffuse_replicate (hshare (by decide +kernel)),
    diffuse_replicate (hshare (by decide +kernel)), diffuse_replicate (hshare (by decide +kernel))]

/-- The raster of one sample throughout. -/
def uniformRaster (w h : Nat) (v : F64) : GrayscaleRaster := ⟨w, h, List.replicate (w * h) v⟩

/-- The bit of an intensity (R156). -/
def inkBit (v : F64) : Nat := if (quantize v).eqv F64.zero then 1 else 0

section
variable {v : F64} (herr : v.sub (quantize v) = F64.zero) (habsorb : v.add F64.zero = v)
include herr habsorb

theorem ditherPixel_uniform (w h : Nat) {n i : Nat} (hi : i < n) (bits : List Nat) :
    ditherPixel w h ⟨List.replicate n v, bits⟩ i = ⟨List.replicate n v, bits ++ [inkBit v]⟩ := by
  simp only [ditherPixel, List.getD_replicate _ hi, herr, diffuseAll_zero_replicate habsorb, inkBit]

theorem ditherScan_uniform (w h : Nat) {n : Nat} (hn : n ≤ w * h) :
    ditherScan (uniformRaster w h v) n = ⟨List.replicate (w * h) v, List.replicate n (inkBit v)⟩ := by
  induction n with
  | zero => rfl
  | succ n ih =>
    rw [ditherScan_succ, ih (Nat.le_of_succ_le hn), List.replicate_succ']
    exact ditherPixel_uniform herr habsorb w h hn _

/-- A value without quantization error that absorbs +0.0 goes through the whole scan unchanged. -/
theorem dither_uniform {b : Nat} (hbit : inkBit v = b) (hv : v.isIntensity = true) (w h : Nat) :
    dither (uniformRaster w h v) = .ok ⟨w, h, List.replicate (w * h) b⟩ ∧
      ∀ n, n ≤ w * h → (ditherScan (uniformRaster w h v) n).work = List.replicate (w * h) v := by
  have hok : (uniformRaster w h v).ok = true :=
    (GrayscaleRaster.ok_iff _).2 ⟨List.length_replicate, fun u hu => List.eq_of_mem_replicate hu ▸ hv⟩
  subst hbit
  refine ⟨?_, fun n hn => by rw [ditherScan_uniform herr habsorb w h hn]⟩
  rw [dither, if_pos hok]
  exact congrArg (fun sc : Scan => Except.ok (MonoRaster.mk w h sc.bits)) (ditherScan_uniform herr habsorb w h le_rfl)

end

end Sys2Proof.Machine

namespace Sys2Proof.Proofs

open Sys2Proof.Machine

/-- Settles O17: the scan step at `(x, y)` is the four shares of its error, and their targets are four different cells. -/
theorem ditherDiffusesToFourNeighbours : Obligations.DitherDiffusesToFourNeighbours := by
  intro raster x y hok hx _ tx ty htx hty
  obtain ⟨hlen, -⟩ := (GrayscaleRaster.ok_iff raster).1 hok
  rw [ditherScan_succ, ditherPixel_work, cellIndex_mod y hx, cellIndex_div y hx,
    diffuseAll_getD _ x y ((ditherScan_work_length raster _).trans hlen) htx hty]
  rfl

/-- Settles O18: black and white are quantized without error and absorb a share of +0.0, and a constant of magnitude at most
1.0 amplifies no error. -/
theorem ditherKeepsUniformRasters : Obligations.DitherKeepsUniformRasters := by
  have hblack : F64.zero.sub (quantize F64.zero) = F64.zero := by decide +kernel
  have hwhite : F64.one.sub (quantize F64.one) = F64.zero := by decide +kernel
  refine ⟨dither_uniform hblack (by decide +kernel) (by decide +kernel) (by decide +kernel),
    dither_uniform hwhite (by decide +kernel) (by decide +kernel) (by decide +kernel), ⟨hblack, hwhite⟩, by decide +kernel, fun e he => ?_⟩
  exact ⟨F64.mag_mul_le he (by decide) (by decide +kernel), F64.mag_mul_le he (by decide) (by decide +kernel),
    F64.mag_mul_le he (by decide) (by decide +kernel), F64.mag_mul_le he (by decide) (by decide +kernel)⟩

end Sys2Proof.Proofs
end

section
/-! The round trip of PACK and UNPACK (R174). A width that is a multiple of 8 leaves no byte straddling two rows, so the row
arithmetic of R170 and R173 comes to the pixel's index divided by 8, and the round trip is one byte's. -/

namespace Sys2Proof.Machine

/-- R170's index of the first pixel of byte `o`. -/
theorem rowBase_eq {w : Nat} (hw : w % 8 = 0) (o : Nat) : o / (w / 8) * w + 8 * (o % (w / 8)) = 8 * o :=
  calc o / (w / 8) * w + 8 * (o % (w / 8))
      = o / (w / 8) * (8 * (w / 8)) + 8 * (o % (w / 8)) := by rw [Nat.mul_div_cancel' (Nat.dvd_of_mod_eq_zero hw)]
    _ = 8 * (w / 8 * (o / (w / 8)) + o % (w / 8)) := by ring
    _ = 8 * o := by rw [Nat.div_add_mod]

/-- R173's offset of the byte that holds pixel `i`. -/
theorem byteOffset_eq {w : Nat} (hw : w % 8 = 0) (i : Nat) : i / w * (w / 8) + i % w / 8 = i / 8 := by
  obtain ⟨b, rfl⟩ := Nat.dvd_of_mod_eq_zero hw
  rw [Nat.mul_div_cancel_left b (by decide), ← Nat.div_div_eq_div_mul, Nat.mod_mul_right_div_self, Nat.div_add_mod']

/-- The bytes of a bitmap hold its pixels, eight to a byte (R29). -/
theorem eight_mul_byteCount {w : Nat} (hw : w % 8 = 0) (h : Nat) : 8 * (w / 8 * h) = w * h := by
  rw [← Nat.mul_assoc, Nat.mul_div_cancel' (Nat.dvd_of_mod_eq_zero hw)]

/-- PACK on the rasters it accepts: byte `o` holds the eight pixels from index `8·o` on (R170). -/
theorem pack_eq {m : MonoRaster} (hok : m.ok = true) (hw : m.width % 8 = 0) :
    pack m = .ok ⟨m.width, m.height,
      (List.range (m.width / 8 * m.height)).map (fun o => packByte m.bits (8 * o))⟩ := by
  rw [pack, if_pos hok, if_neg (not_not.2 hw)]
  simp only [rowBase_eq hw]

/-- PACK's width check (R172). -/
theorem pack_bad_width {m : MonoRaster} (hok : m.ok = true) (hw : m.width % 8 ≠ 0) :
    pack m = .error (.raise (.invalidDimension m.width)) := by
  rw [pack, if_pos hok, if_pos hw]

/-- UNPACK on the bitmaps it accepts: pixel `i` is pixel `i mod 8` of byte `i div 8` (R173). -/
theorem unpack_eq {p : PackedBitmap} (hok : p.ok = true) :
    unpack p = .ok ⟨p.width, p.height,
      (List.range (p.width * p.height)).map (fun i => unpackBit p.bytes (i / 8) (i % 8))⟩ := by
  obtain ⟨hw, -⟩ := (PackedBitmap.ok_iff p).1 hok
  rw [unpack, if_pos hok]
  simp only [byteOffset_eq hw, Nat.mod_mod_of_dvd _ (Nat.dvd_of_mod_eq_zero hw)]

theorem foldl_or_getLsbD {α : Type} {w : Nat} (f : α → BitVec w) (l : List α) (v : BitVec w) (i : Nat) :
    (l.foldl (fun v a => v ||| f a) v).getLsbD i = (v.getLsbD i || l.any (fun a => (f a).getLsbD i)) := by
  induction l generalizing v with
  | nil => simp
  | cons a l ih => simp [ih, Bool.or_assoc]

/-- A pixel shifted to bit `7 - j` shows at bit `7 - k` for `k = j` alone. -/
theorem shiftedPixel_getLsbD {b j k : Nat} (hb : b ≤ 1) (hj : j < 8) (hk : k < 8) :
    (BitVec.ofNat 8 b <<< (7 - j)).getLsbD (7 - k) = (decide (j = k) && decide (b = 1)) := by
  obtain rfl | rfl := Nat.le_one_iff_eq_zero_or_eq_one.1 hb
  · simp
  · rw [Bool.eq_iff_iff]
    simp only [BitVec.getLsbD_shiftLeft, BitVec.getLsbD_one, Bool.and_eq_true, Bool.not_eq_true', decide_eq_true_eq,
      decide_eq_false_iff_not, and_true]
    omega

/-- The pixels PACK reads are 0 or 1, those past the end too. -/
theorem getD_le_one {bits : List Nat} (hbits : ∀ b ∈ bits, b ≤ 1) (i : Nat) : bits.getD i 0 ≤ 1 := by
  rw [List.getD_eq_getElem?_getD]
  cases h : bits[i]? with
  | none => exact Nat.zero_le 1
  | some b => exact hbits b (List.mem_of_getElem? h)

/-- Bit `7 - k` of a packed byte is pixel `k` of the eight (R171). -/
theorem packByte_getLsbD {bits : List Nat} (hbits : ∀ b ∈ bits, b ≤ 1) (base : Nat) {k : Nat} (hk : k < 8) :
    (packByte bits base).getLsbD (7 - k) = decide (bits.getD (base + k) 0 = 1) := by
  rw [packByte, foldl_or_getLsbD, Bool.eq_iff_iff]
  simp only [BitVec.getLsbD_zero, Bool.false_or, List.any_eq_true, List.mem_range, decide_eq_true_eq]
  constructor
  · rintro ⟨j, hj, h⟩
    rw [shiftedPixel_getLsbD (getD_le_one hbits _) hj hk] at h
    simp only [Bool.and_eq_true, decide_eq_true_eq] at h
    exact h.1 ▸ h.2
  · exact fun h => ⟨k, hk, by rw [shiftedPixel_getLsbD (getD_le_one hbits _) hk hk]; simpa using h⟩

/-- A byte is its eight pixels (R171). -/
theorem byte_eq_of_pixels_eq {a b : Byte} (h : ∀ k < 8, a.getLsbD (7 - k) = b.getLsbD (7 - k)) : a = b := by
  refine BitVec.eq_of_getLsbD_eq fun i hi => ?_
  have hi7 : 7 - (7 - i) = i := by omega
  simpa only [hi7] using h (7 - i) (by omega)

theorem unpackBit_le_one (bytes : List Byte) (o k : Nat) : unpackBit bytes o k ≤ 1 := by
  unfold unpackBit
  split <;> decide

/-- UNPACK's pixel of what PACK wrote is the pixel PACK read. -/
theorem unpackBit_packByte {bits : List Nat} (hbits : ∀ b ∈ bits, b ≤ 1) {n i : Nat} (hi : i / 8 < n)
    (hib : i < bits.length) :
    unpackBit ((List.range n).map (fun o => packByte bits (8 * o))) (i / 8) (i % 8) = bits[i] := by
  have hbyte : ((List.range n).map (fun o => packByte bits (8 * o))).getD (i / 8) 0#8 = packByte bits (8 * (i / 8)) := by
    simp [List.getD_eq_getElem?_getD, hi]
  have hle : bits[i] ≤ 1 := hbits _ (List.getElem_mem hib)
  rw [unpackBit, hbyte, packByte_getLsbD hbits _ (Nat.mod_lt i (by decide)), Nat.div_add_mod,
    List.getD_eq_getElem _ _ hib]
  obtain hb | hb := Nat.le_one_iff_eq_zero_or_eq_one.1 hle <;> simp [hb]

/-- PACK's byte of what UNPACK read is the byte UNPACK was given. -/
theorem packByte_unpackBit {bytes : List Byte} {n o : Nat} (ho : 8 * o + 7 < n) (hob : o < bytes.length) :
    packByte ((List.range n).map (fun i => unpackBit bytes (i / 8) (i % 8))) (8 * o) = bytes[o] := by
  have hbits : ∀ b ∈ (List.range n).map (fun i => unpackBit bytes (i / 8) (i % 8)), b ≤ 1 :=
    List.forall_mem_map.2 fun _ _ => unpackBit_le_one _ _ _
  refine byte_eq_of_pixels_eq fun k hk => ?_
  have hdiv : (8 * o + k) / 8 = o := by omega
  have hmod : (8 * o + k) % 8 = k := by omega
  have hlt : 8 * o + k < n := by omega
  rw [packByte_getLsbD hbits _ hk]
  simp [List.getD_eq_getElem?_getD, hdiv, hmod, hlt, hob, unpackBit]

/-- UNPACK undoes PACK (R174). -/
theorem unpack_pack {m : MonoRaster} {p : PackedBitmap} (h : pack m = .ok p) : unpack p = .ok m := by
  obtain ⟨hok, hw, hpok, -, -⟩ := pack_ok h
  obtain ⟨hlen, hbits⟩ := (MonoRaster.ok_iff m).1 hok
  rw [unpack_eq hpok]
  rw [pack_eq hok hw] at h
  injection h with h
  subst h
  congr
  refine List.ext_getElem (by simp [hlen]) fun i hi hib => ?_
  rw [List.getElem_map, List.getElem_range]
  have hbytes := eight_mul_byteCount hw m.height
  exact unpackBit_packByte hbits (by omega) hib

/-- PACK undoes UNPACK (R174). -/
theorem pack_unpack {p : PackedBitmap} {m : MonoRaster} (h : unpack p = .ok m) : pack m = .ok p := by
  obtain ⟨hok, hmok, hmw, -⟩ := unpack_ok h
  obtain ⟨hw, hlen⟩ := (PackedBitmap.ok_iff p).1 hok
  rw [pack_eq hmok (hmw ▸ hw)]
  rw [unpack_eq hok] at h
  injection h with h
  subst h
  congr
  refine List.ext_getElem (by simp [hlen]) fun o ho hob => ?_
  rw [List.getElem_map, List.getElem_range]
  have hbytes := eight_mul_byteCount hw p.height
  exact packByte_unpackBit (by omega) hob

end Sys2Proof.Machine

namespace Sys2Proof.Proofs

open Sys2Proof.Machine

/-- Settles O23: PACK and UNPACK each complete on what they admit (`pack_eq`, `unpack_eq`), and undo each other. -/
theorem packUnpackRoundTrip : Obligations.PackUnpackRoundTrip :=
  ⟨fun _ hok hw => ⟨_, pack_eq hok hw, unpack_pack (pack_eq hok hw)⟩,
    fun _ hok => ⟨_, unpack_eq hok, pack_unpack (unpack_eq hok)⟩,
    fun _ hok hw => pack_bad_width hok hw⟩

end Sys2Proof.Proofs
end

section
/-! FAULT and its only exit (R239): a standing fault shuts START and the writes of the ports, the CORE executes nothing and has
no call to make in it, so every step but a block reset changes `answer` and the list of moves alone. -/

namespace Sys2Proof.Machine

theorem not_open_of_fault {s : State} (hp : s.phase = .fault) : ¬ (s.phase = .idle ∨ s.phase = .done) := by
  simp [hp]

theorem not_run_of_fault {s : State} (hp : s.phase = .fault) : s.phase ≠ .run := by
  simp [hp]

/-- START is refused while a job runs or a fault stands (R36). -/
theorem start_not_open {s : State} (h : ¬ (s.phase = .idle ∨ s.phase = .done)) : s.start = .refused .notReady :=
  if_neg fun hready => h hready.1

/-- In FAULT a move other than block reset at most answers the host. -/
theorem hostStep_fault {m : HostMove} {s t : State} (hp : s.phase = .fault) (hm : m ≠ .blockReset)
    (h : hostStep m s = .next t) : t = { s with answer := t.answer } := by
  obtain ⟨-, hcore⟩ | ⟨rfl, -⟩ | ⟨-, hstart⟩ | ⟨-, rfl⟩ | ⟨-, f, -, hf, -⟩ | ⟨hopen, -⟩ := hostStep_next h
  · rw [coreStep_idle (not_run_of_fault hp)] at hcore
    cases hcore
    rfl
  · exact absurd rfl hm
  · exact absurd (start_next hstart).1 (not_open_of_fault hp)
  · rfl
  · exact absurd (nextFrame_some hf).1 (not_run_of_fault hp)
  · exact absurd hopen (not_open_of_fault hp)

/-- A step in FAULT, unless it is a block reset, takes a move off the list and at most answers the host (R239). -/
theorem step_fault {s t : State} (hp : s.phase = .fault) (hm : s.moves.head? ≠ some .blockReset)
    (h : step s = .next t) : t = { s with moves := s.moves.tail, answer := t.answer } := by
  cases hmoves : s.moves with
  | nil =>
    rw [step_quiet hmoves, coreStep_idle (not_run_of_fault hp)] at h
    cases h
    rw [List.tail_nil, ← hmoves]
  | cons m rest =>
    have hm' : m ≠ .blockReset := by simpa [hmoves] using hm
    rw [step_move hmoves] at h
    exact hostStep_fault (s := { s with moves := rest }) hp hm' h

end Sys2Proof.Machine

namespace Sys2Proof.Proofs

open Sys2Proof.Machine

/-- Settles O48: a step in FAULT that is no block reset writes `answer` and the list of moves alone (`step_fault`), so the fault
and what it left behind stay. -/
theorem faultPersistsUntilBlockReset : Obligations.FaultPersistsUntilBlockReset := by
  intro s t hp
  refine ⟨fun h hm => ?_, fun hstart => ?_, fun hreset => ?_⟩
  · rw [step_fault hp hm h]
    simp [hp]
  · obtain ⟨rest, hmoves⟩ := List.head?_eq_some_iff.1 hstart
    rw [step_move hmoves]
    exact start_not_open (not_open_of_fault hp)
  · obtain ⟨rest, hmoves⟩ := List.head?_eq_some_iff.1 hreset
    exact ⟨_, step_move hmoves, State.blockReset_phase _, State.blockReset_err _⟩

end Sys2Proof.Proofs
end

section
/-! The wire format (R80 to R90): the fields of a frame read back what the encoder wrote and only that, so decoding and encoding
undo each other, on one operation and on a whole stream. -/

namespace Sys2Proof

open Sys2Proof.Safety

/-! ### Fields of a frame -/

theorem read16_le (lo hi : Byte) : read16 lo hi ≤ 65535 := by
  unfold read16
  omega

theorem read16_lo8_hi8 {v : Nat} (h : v ≤ 65535) : read16 (lo8 v) (hi8 v) = v := by
  simp only [read16, lo8, hi8, BitVec.toNat_ofNat]
  omega

theorem le16_read16 (lo hi : Byte) : le16 (read16 lo hi) = [lo, hi] := by
  have hlo : lo8 (read16 lo hi) = lo := by
    apply BitVec.eq_of_toNat_eq
    simp only [read16, lo8, BitVec.toNat_ofNat]
    omega
  have hhi : hi8 (read16 lo hi) = hi := by
    apply BitVec.eq_of_toNat_eq
    simp only [read16, hi8, BitVec.toNat_ofNat]
    omega
  rw [le16, hlo, hhi]

theorem byteOperand?_eq_some_iff {n : Nat} {v : Byte} : byteOperand? n = some v ↔ v.toNat = n := by
  unfold byteOperand?
  split
  next hn =>
    rw [Option.some_inj, ← BitVec.toNat_inj, BitVec.toNat_ofNat, Nat.mod_eq_of_lt hn]
    exact eq_comm
  next hn =>
    have hv := v.isLt
    simp only [reduceCtorEq, false_iff]
    omega

@[simp] theorem byteOperand?_toNat (v : Byte) : byteOperand? v.toNat = some v := byteOperand?_eq_some_iff.2 rfl

theorem Alignment.ofOrdinal?_eq_some_iff {n : Nat} {a : Alignment} :
    Alignment.ofOrdinal? n = some a ↔ a.ordinal.toNat = n := by
  unfold Alignment.ofOrdinal?
  split
  · cases a <;> simp_all [Alignment.ordinal]
  split
  · cases a <;> simp_all [Alignment.ordinal]
  split
  · cases a <;> simp_all [Alignment.ordinal]
  · cases a <;> simp_all [Alignment.ordinal, eq_comm]

@[simp] theorem Alignment.ofOrdinal?_ordinal (a : Alignment) : Alignment.ofOrdinal? a.ordinal.toNat = some a :=
  Alignment.ofOrdinal?_eq_some_iff.2 rfl

/-- With no name listed twice, a mode's byte is that of any entry with its name. -/
theorem lookup_eq_some_iff_mem {modes : ModeMap} (hnames : (modes.map (fun e => e.1)).Nodup) {name : String} {b : Byte} :
    modes.lookup name = some b ↔ (name, b) ∈ modes := by
  rw [List.lookup_eq_some_iff]
  constructor
  · rintro ⟨before, after, rfl, -⟩
    simp
  · intro hmem
    obtain ⟨before, after, rfl⟩ := List.append_of_mem hmem
    refine ⟨before, after, rfl, fun e he => ?_⟩
    rw [List.map_append, List.map_cons, List.nodup_middle, List.nodup_cons] at hnames
    rw [bne_iff_ne]
    rintro rfl
    exact hnames.1 (List.mem_append_left _ (List.mem_map.2 ⟨e, he, rfl⟩))

/-- With no byte listed twice, the entry a byte stands for is any entry with that byte. -/
theorem find?_eq_some_iff_mem {modes : ModeMap} (hbytes : (modes.map (fun e => e.2)).Nodup) {b : Byte} {e : String × Byte} :
    modes.find? (fun e => e.2 == b) = some e ↔ e ∈ modes ∧ e.2 = b := by
  constructor
  · exact fun h => ⟨List.mem_of_find?_eq_some h, by simpa using List.find?_some h⟩
  · rintro ⟨hmem, rfl⟩
    obtain ⟨e', he'⟩ := Option.isSome_iff_exists.1
      (List.find?_isSome (p := fun e' : String × Byte => e'.2 == e.2).2 ⟨e, hmem, beq_self_eq_true e.2⟩)
    have hbyte : e'.2 = e.2 := by simpa using List.find?_some he'
    rw [he', List.inj_on_of_nodup_map hbytes (List.mem_of_find?_eq_some he') hmem hbyte]

/-- A reader's byte names the mode that is sent as it (R85, R189), where no name and no byte is listed twice. -/
theorem BitmapMode.ofByte?_eq_some_iff {modes : ModeMap} (hmodes : modeMapWf modes) {b : Byte} {mode : BitmapMode} :
    BitmapMode.ofByte? modes b = some mode ↔ mode.ordinal? modes = some b := by
  obtain ⟨hnames, hbytes, hzero⟩ := hmodes
  unfold BitmapMode.ofByte?
  cases mode with
  | normal =>
    split
    next hb => simp [hb, BitmapMode.ordinal?]
    next hb => simp [Ne.symm hb, BitmapMode.ordinal?]
  | extra name =>
    rw [BitmapMode.ordinal?, lookup_eq_some_iff_mem hnames]
    split
    next hb => exact iff_of_false (by simp) fun hmem => hzero _ hmem hb
    next hb =>
      simp only [Option.map_eq_some_iff, find?_eq_some_iff_mem hbytes, BitmapMode.extra.injEq]
      constructor
      · rintro ⟨e, ⟨hmem, rfl⟩, rfl⟩
        exact hmem
      · exact fun hmem => ⟨(name, b), ⟨hmem, rfl⟩, rfl⟩

theorem decodeAlignment_ordinal (a : Alignment) :
    decodeAlignment a.ordinal = .ok (.setAlignment a.ordinal.toNat) := by
  cases a <;> rfl

theorem decodeStyle_styleFlags (b u dw dh : Bool) :
    decodeStyle (styleFlags b u dw dh) = .ok (.setTextStyle b u dw dh) := by
  revert b u dw dh
  decide

/-- A flag byte with its four clear bits is that of the style it reads as (R83). -/
theorem styleFlags_of_clear {f : Byte} (h : f &&& 0x47#8 = 0#8) :
    styleFlags (f.getLsbD 3) (f.getLsbD 7) (f.getLsbD 5) (f.getLsbD 4) = f := by
  revert f
  decide

/-! ### One frame -/

section
variable (modes : ModeMap) (rest : List Byte)

theorem decode_reset : decode modes (0x1b#8 :: 0x40#8 :: rest) = .ok (.reset, rest) := rfl

theorem decode_alignment :
    decode modes (0x1b#8 :: 0x61#8 :: rest) = decodeFX3 decodeAlignment rest := rfl

theorem decode_style : decode modes (0x1b#8 :: 0x21#8 :: rest) = decodeFX3 decodeStyle rest := rfl

theorem decode_feedLines :
    decode modes (0x1b#8 :: 0x64#8 :: rest) = decodeFX3 (fun n => .ok (.feedLines n.toNat)) rest := rfl

theorem decode_feedDots :
    decode modes (0x1b#8 :: 0x4a#8 :: rest) = decodeFX3 (fun n => .ok (.feedDots n.toNat)) rest := rfl

theorem decode_bitmap : decode modes (0x1d#8 :: 0x76#8 :: 0x30#8 :: rest) = decodeBitmap modes rest := rfl

/-- A byte that can start no command is a text of one byte, whatever follows (R87). -/
theorem decode_plainByte {b : Byte} (h : plainByte b) : decode modes (b :: rest) = .ok (.writeText [b], rest) := by
  obtain ⟨hesc, hgs⟩ := h
  rw [decode.eq_def]
  simp only [hesc, hgs, if_false]

end

theorem decodeFX3_cons {field : Byte → Except DecodeRefusal Instr} {n : Byte} {i : Instr} (h : field n = .ok i)
    (rest : List Byte) : decodeFX3 field (n :: rest) = .ok (i, rest) := by
  simp [decodeFX3, h]

theorem decodeFX3_ok {field : Byte → Except DecodeRefusal Instr} {bs rest : List Byte} {i : Instr}
    (h : decodeFX3 field bs = .ok (i, rest)) : ∃ n, bs = n :: rest ∧ field n = .ok i := by
  match bs, h with
  | n :: bs, h =>
    simp only [decodeFX3] at h
    split at h
    next i' hi =>
      cases h
      exact ⟨n, rfl, hi⟩
    next => cases h

/-! ### The bitmap frame -/

/-- The operands of a decoded bitmap: `cb` bytes a row, as many bytes as the header says (R86). -/
def BitmapOperands.ofBytes (cb height : Nat) (bytes : List Byte) : BitmapOperands :=
  .given (8 * cb) height ⟨8 * cb, height, bytes⟩

section
variable {cb height : Nat} {bytes : List Byte} {mode : BitmapMode} {m : Byte}

/-- A decoded bitmap passes checks 2 and 3 of R190. -/
theorem BitmapOperands.ofBytes_wf (hcb : cb ≤ 65535) (hheight : height ≤ 65535) (hbytes : bytes.length = cb * height) :
    (BitmapOperands.ofBytes cb height bytes).wf = true := by
  simp [BitmapOperands.wf, BitmapOperands.ofBytes, PackedBitmap.agrees, PackedBitmap.ok, headerInRange, hcb, hheight, hbytes]

theorem BitmapOperands.exists_ofBytes {width height : Nat} {packed : PackedBitmap}
    (h : (BitmapOperands.given width height packed).wf = true) :
    ∃ cb bytes, BitmapOperands.given width height packed = .ofBytes cb height bytes ∧ cb ≤ 65535 ∧ height ≤ 65535 ∧
      bytes.length = cb * height := by
  obtain ⟨pw, ph, bytes⟩ := packed
  simp only [BitmapOperands.wf, PackedBitmap.agrees, PackedBitmap.ok, headerInRange, Bool.and_eq_true,
    decide_eq_true_eq] at h
  obtain ⟨⟨⟨rfl, rfl⟩, hmod, hlen⟩, hcb, hheight⟩ := h
  have hwidth : 8 * (width / 8) = width := by omega
  exact ⟨width / 8, bytes, by rw [BitmapOperands.ofBytes, hwidth], hcb, hheight, hlen⟩

theorem encode_bitmap (modes : ModeMap) (hm : mode.ordinal? modes = some m) (hcb : cb ≤ 65535)
    (hheight : height ≤ 65535) (hbytes : bytes.length = cb * height) :
    encode modes (.bitmapBlock mode (.ofBytes cb height bytes))
      = some (0x1d#8 :: 0x76#8 :: 0x30#8 :: m :: (le16 cb ++ le16 height ++ bytes)) := by
  have hwf := BitmapOperands.ofBytes_wf hcb hheight hbytes
  have hdiv : 8 * cb / 8 = cb := Nat.mul_div_cancel_left cb (by decide)
  unfold BitmapOperands.wf at hwf
  simp only [BitmapOperands.ofBytes] at hwf ⊢
  simp [encode, hwf, hm, hdiv]

/-- The payload's length follows from the header (R86). -/
theorem decodeBitmap_cons {modes : ModeMap} (hm : BitmapMode.ofByte? modes m = some mode) (hcb : cb ≤ 65535)
    (hheight : height ≤ 65535) (hbytes : bytes.length = cb * height) (rest : List Byte) :
    decodeBitmap modes (m :: (le16 cb ++ le16 height ++ bytes) ++ rest)
      = .ok (.bitmapBlock mode (.ofBytes cb height bytes), rest) := by
  simp [le16, decodeBitmap, read16_lo8_hi8 hcb, read16_lo8_hi8 hheight, hm, ← hbytes, BitmapOperands.ofBytes]

end

theorem decodeBitmap_ok {modes : ModeMap} {bs rest : List Byte} {i : Instr} (h : decodeBitmap modes bs = .ok (i, rest)) :
    ∃ m mode cb height bytes, BitmapMode.ofByte? modes m = some mode ∧ cb ≤ 65535 ∧ height ≤ 65535 ∧
      bytes.length = cb * height ∧ bs = m :: (le16 cb ++ le16 height ++ bytes) ++ rest ∧
      i = .bitmapBlock mode (.ofBytes cb height bytes) := by
  match bs, h with
  | m :: xL :: xH :: yL :: yH :: tail, h =>
    simp only [decodeBitmap] at h
    split at h
    next => cases h
    next mode hmode =>
      split at h
      next => cases h
      next hlen =>
        cases h
        refine ⟨m, mode, read16 xL xH, read16 yL yH, tail.take (read16 xL xH * read16 yL yH), hmode, read16_le _ _,
          read16_le _ _, List.length_take_of_le (Nat.le_of_not_lt hlen), ?_, rfl⟩
        simp [le16_read16]

/-! ### Decoding undoes encoding -/

/-- The decoder's branch follows from the opcode bytes, and each field reads back what was written into it. -/
theorem decode_encode {modes : ModeMap} {i : Instr} {f : List Byte} (hmodes : modeMapWf modes)
    (h : encode modes i = some f) (htext : ∀ text, i = .writeText text → ∃ b, text = [b] ∧ plainByte b)
    (rest : List Byte) : decode modes (f ++ rest) = .ok (i, rest) := by
  cases i with
  | reset =>
    cases h
    exact decode_reset modes rest
  | setAlignment a =>
    obtain ⟨al, hal, rfl⟩ := Option.map_eq_some_iff.1 h
    obtain rfl := Alignment.ofOrdinal?_eq_some_iff.1 hal
    exact (decode_alignment modes _).trans (decodeFX3_cons (decodeAlignment_ordinal al) rest)
  | setTextStyle b u dw dh =>
    cases h
    exact (decode_style modes _).trans (decodeFX3_cons (decodeStyle_styleFlags b u dw dh) rest)
  | feedLines n =>
    obtain ⟨v, hv, rfl⟩ := Option.map_eq_some_iff.1 h
    obtain rfl := byteOperand?_eq_some_iff.1 hv
    exact (decode_feedLines modes _).trans (decodeFX3_cons rfl rest)
  | feedDots n =>
    obtain ⟨v, hv, rfl⟩ := Option.map_eq_some_iff.1 h
    obtain rfl := byteOperand?_eq_some_iff.1 hv
    exact (decode_feedDots modes _).trans (decodeFX3_cons rfl rest)
  | bitmapBlock mode operands =>
    cases operands with
    | fromP => cases h
    | given width height packed =>
      have hwf := Laws.WireForm.bitmapBlock mode (.given width height packed) modes
      simp only [h, Option.isSome_some, Instr.wf, Laws.WireForm.hasWireForm, Bool.and_true, Eq.comm (a := true),
        Bool.and_eq_true] at hwf
      obtain ⟨hmode, hop⟩ := hwf
      obtain ⟨m, hm⟩ := Option.isSome_iff_exists.1 hmode
      obtain ⟨cb, bytes, heq, hcb, hheight, hbytes⟩ := BitmapOperands.exists_ofBytes hop
      rw [heq] at h ⊢
      rw [encode_bitmap modes hm hcb hheight hbytes] at h
      cases h
      exact (decode_bitmap modes _).trans
        (decodeBitmap_cons ((BitmapMode.ofByte?_eq_some_iff hmodes).2 hm) hcb hheight hbytes rest)
  | writeText text =>
    obtain ⟨b, rfl, hb⟩ := htext text rfl
    cases h
    exact decode_plainByte modes rest hb
  | normalize | luminance | resample | dither | pack | unpack | rasterize | emit => cases h

/-! ### Encoding undoes decoding -/

/-- `f` is a frame of the well-formed operation `i` (R80). -/
def IsFrame (modes : ModeMap) (i : Instr) (f : List Byte) : Prop :=
  i.wf modes = true ∧ encode modes i = some f ∧ f ≠ []

theorem decodeAlignment_ok {n : Byte} {i : Instr} (modes : ModeMap) (h : decodeAlignment n = .ok i) :
    IsFrame modes i [0x1b#8, 0x61#8, n] := by
  unfold decodeAlignment at h
  split at h
  next hn =>
    cases h
    have hordinal : ∀ n : Byte, n.toNat ≤ 2 → (Alignment.ofOrdinal? n.toNat).isSome = true := by decide
    obtain ⟨a, ha⟩ := Option.isSome_iff_exists.1 (hordinal n hn)
    obtain rfl := BitVec.eq_of_toNat_eq (Alignment.ofOrdinal?_eq_some_iff.1 ha)
    simp [IsFrame, Instr.wf, encode]
  next => cases h

theorem decodeStyle_ok {f : Byte} {i : Instr} (modes : ModeMap) (h : decodeStyle f = .ok i) :
    IsFrame modes i [0x1b#8, 0x21#8, f] := by
  unfold decodeStyle at h
  split at h
  next hclear =>
    cases h
    exact ⟨rfl, by rw [encode, styleFlags_of_clear hclear], by simp⟩
  next => cases h

theorem isFrame_feedLines (modes : ModeMap) (n : Byte) : IsFrame modes (.feedLines n.toNat) [0x1b#8, 0x64#8, n] := by
  simp [IsFrame, Instr.wf, encode, n.isLt]

theorem isFrame_feedDots (modes : ModeMap) (n : Byte) : IsFrame modes (.feedDots n.toNat) [0x1b#8, 0x4a#8, n] := by
  simp [IsFrame, Instr.wf, encode, n.isLt]

/-- A three-byte frame whose field is read by `field` (R81). -/
theorem decodeFX3_isFrame {modes : ModeMap} {field : Byte → Except DecodeRefusal Instr} {b1 : Byte} {tail rest : List Byte}
    {i : Instr} (hfield : ∀ n i, field n = .ok i → IsFrame modes i [0x1b#8, b1, n])
    (h : decodeFX3 field tail = .ok (i, rest)) : ∃ f, IsFrame modes i f ∧ 0x1b#8 :: b1 :: tail = f ++ rest := by
  obtain ⟨n, rfl, hn⟩ := decodeFX3_ok h
  exact ⟨_, hfield n i hn, rfl⟩

theorem decodeBitmap_isFrame {modes : ModeMap} (hmodes : modeMapWf modes) {tail rest : List Byte} {i : Instr}
    (h : decodeBitmap modes tail = .ok (i, rest)) :
    ∃ f, IsFrame modes i f ∧ 0x1d#8 :: 0x76#8 :: 0x30#8 :: tail = f ++ rest := by
  obtain ⟨m, mode, cb, height, bytes, hm, hcb, hheight, hbytes, rfl, rfl⟩ := decodeBitmap_ok h
  have hordinal := (BitmapMode.ofByte?_eq_some_iff hmodes).1 hm
  refine ⟨_, ⟨?_, encode_bitmap modes hordinal hcb hheight hbytes, by simp⟩, rfl⟩
  simp [Instr.wf, hordinal, BitmapOperands.ofBytes_wf hcb hheight hbytes]

/-- A byte read as text is a frame of its own (R87). -/
theorem text_isFrame {modes : ModeMap} {b : Byte} {tail rest : List Byte} {i : Instr}
    (h : Except.ok (ε := DecodeRefusal) (Instr.writeText [b], tail) = .ok (i, rest)) :
    ∃ f, IsFrame modes i f ∧ b :: tail = f ++ rest := by
  cases h
  exact ⟨[b], ⟨rfl, rfl, by simp⟩, rfl⟩

/-- What the decoder read is a frame, and the bytes after it are the rest (R87). -/
theorem decode_ok {modes : ModeMap} {bs rest : List Byte} {i : Instr} (hmodes : modeMapWf modes)
    (h : decode modes bs = .ok (i, rest)) : ∃ f, IsFrame modes i f ∧ bs = f ++ rest := by
  rw [decode.eq_def] at h
  split at h
  next => cases h
  next b0 tail =>
  split at h
  next hesc =>
    subst hesc
    split at h
    next => exact text_isFrame h
    next b1 rest1 =>
    split at h
    next hb =>
      cases h
      exact ⟨[0x1b#8, 0x40#8], ⟨rfl, rfl, by simp⟩, by rw [hb]; rfl⟩
    split at h
    next hb => exact hb ▸ decodeFX3_isFrame (fun _ _ => decodeAlignment_ok modes) h
    split at h
    next hb => exact hb ▸ decodeFX3_isFrame (fun _ _ => decodeStyle_ok modes) h
    split at h
    next hb => exact hb ▸ decodeFX3_isFrame (fun n _ hn => by cases hn; exact isFrame_feedLines modes n) h
    split at h
    next hb => exact hb ▸ decodeFX3_isFrame (fun n _ hn => by cases hn; exact isFrame_feedDots modes n) h
    next => exact text_isFrame h
  split at h
  next hgs =>
    subst hgs
    split at h
    next b1 b2 rest2 =>
      split at h
      next hb =>
        obtain ⟨rfl, rfl⟩ := hb
        exact decodeBitmap_isFrame hmodes h
      next => exact text_isFrame h
    next => exact text_isFrame h
  next => exact text_isFrame h

/-! ### Streams -/

/-- A reader with enough fuel makes the operations `is` of the bytes `bs`. -/
def ReadsAs (modes : ModeMap) (bs : List Byte) (is : List Instr) : Prop :=
  ∀ fuel, bs.length ≤ fuel → decodeStream modes fuel bs = .ok is

theorem readsAs_nil (modes : ModeMap) : ReadsAs modes [] [] := fun fuel _ => by cases fuel <;> rfl

theorem decode_ne_nil {modes : ModeMap} {bs : List Byte} {x : Instr × List Byte} (h : decode modes bs = .ok x) : bs ≠ [] := by
  rintro rfl
  cases h

section
variable {modes : ModeMap} {tail : List Byte} {is : List Instr}

/-- One frame in front of a stream is one operation in front of its operations. -/
theorem ReadsAs.append {f : List Byte} {i : Instr} (htail : ReadsAs modes tail is) (hf : f ≠ [])
    (h : decode modes (f ++ tail) = .ok (i, tail)) : ReadsAs modes (f ++ tail) (i :: is) := by
  intro fuel hfuel
  obtain ⟨b, f, rfl⟩ := List.exists_cons_of_ne_nil hf
  rw [List.cons_append] at h hfuel ⊢
  obtain ⟨fuel, rfl⟩ := Nat.exists_eq_succ_of_ne_zero (Nat.ne_zero_of_lt hfuel)
  have hrest : tail.length ≤ fuel := by
    simp only [List.length_cons, List.length_append] at hfuel
    omega
  simp [decodeStream, h, htail fuel hrest]

/-- A text of plain bytes is read byte by byte (R87). -/
theorem ReadsAs.append_text {text : List Byte} (htail : ReadsAs modes tail is) (htext : ∀ b ∈ text, plainByte b) :
    ReadsAs modes (text ++ tail) (text.map (fun b => .writeText [b]) ++ is) := by
  induction text with
  | nil => exact htail
  | cons b text ih =>
    rw [List.forall_mem_cons] at htext
    exact (ih htext.2).append (f := [b]) (by simp) (decode_plainByte modes _ htext.1)

/-- An operation's words in front of a stream are read as that operation. -/
theorem ReadsAs.append_encode {i : Instr} {f : List Byte} (hmodes : modeMapWf modes) (htail : ReadsAs modes tail is)
    (h : encode modes i = some f) (htext : ∀ text, i = .writeText text → ∀ b ∈ text, plainByte b) :
    ReadsAs modes (f ++ tail) (asRead i ++ is) := by
  by_cases hi : ∃ text, i = .writeText text
  · obtain ⟨text, rfl⟩ := hi
    cases h
    exact htail.append_text (htext _ rfl)
  · have hnot : ∀ text, i ≠ .writeText text := fun text ht => hi ⟨text, ht⟩
    have hread : asRead i = [i] := by
      cases i with
      | writeText text => exact absurd rfl (hnot text)
      | _ => rfl
    have hdecode := decode_encode hmodes h fun text ht => absurd ht (hnot text)
    have hf : f ≠ [] := decode_ne_nil (by simpa using hdecode [])
    rw [hread]
    exact htail.append hf (hdecode tail)

end

/-- A stream of frames is read as its operations. -/
theorem readsAs_flatten {modes : ModeMap} (hmodes : modeMapWf modes) {ops : List Instr} {frames : List (List Byte)}
    (h : ops.map (encode modes) = frames.map some)
    (htext : ∀ text, Instr.writeText text ∈ ops → ∀ b ∈ text, plainByte b) :
    ReadsAs modes frames.flatten (ops.flatMap asRead) := by
  induction ops generalizing frames with
  | nil =>
    obtain rfl : frames = [] := by simpa using h.symm
    exact readsAs_nil modes
  | cons i ops ih =>
    obtain ⟨f, frames, rfl⟩ := List.exists_cons_of_ne_nil (l := frames) (by rintro rfl; simp at h)
    simp only [List.map_cons, List.cons.injEq] at h
    obtain ⟨hi, hops⟩ := h
    rw [List.flatten_cons, List.flatMap_cons]
    exact (ih hops fun text ht => htext text (List.mem_cons_of_mem i ht)).append_encode hmodes hi
      fun text ht => htext text (ht ▸ List.mem_cons_self)

end Sys2Proof

namespace Sys2Proof.Proofs

/-- Settles O33, by the operation's constructor: the decoder takes its branch from the opcode bytes, and each field reads back what
was written into it. -/
theorem decodeOfEncodeIsIdentity : Obligations.DecodeOfEncodeIsIdentity :=
  fun _ _ _ rest hmodes h htext => decode_encode hmodes h htext rest

/-- Settles O34, by the decoder's branches: each ends at a frame of the operation it answers (`decode_ok`). -/
theorem decodedBytesAreTheEncoding : Obligations.DecodedBytesAreTheEncoding := by
  intro modes bs rest i hmodes h
  obtain ⟨f, ⟨hwf, henc, hne⟩, hbs⟩ := decode_ok hmodes h
  exact ⟨hwf, f, henc, hne, hbs⟩

/-- Settles O35, by induction on the operations: a frame in front of a stream is one operation read, a text one for each byte. -/
theorem streamDecodesToItsOperations : Obligations.StreamDecodesToItsOperations :=
  fun _ _ _ hmodes h htext => readsAs_flatten hmodes h htext

/-- Settles O36: the seven frames, evaluated. -/
theorem specWordsDecode : Obligations.SpecWordsDecode := by
  unfold Obligations.SpecWordsDecode
  decide

end Sys2Proof.Proofs
end

section
/-! What the endings of an operation (`Effect`) leave unchanged, and what a fault leaves: the frame of every operation, read off
`Effect` case by case, and from it the frame of the CORE's own step. -/

namespace Sys2Proof.Machine

open Sys2Proof.Safety (isEncoder)

/-! ### The frame of an operation -/

section
variable {i : Instr} {s t : State} (h : Effect i s t)
include h

theorem Effect.cfg_eq : t.cfg = s.cfg := by cases h <;> subst t <;> rfl
theorem Effect.job_eq : t.job = s.job := by cases h <;> subst t <;> rfl
theorem Effect.img_eq : t.img = s.img := by cases h <;> subst t <;> rfl
theorem Effect.cfgIn_eq : t.cfgIn = s.cfgIn := by cases h <;> subst t <;> rfl
theorem Effect.jobIn_eq : t.jobIn = s.jobIn := by cases h <;> subst t <;> rfl
theorem Effect.imgIn_eq : t.imgIn = s.imgIn := by cases h <;> subst t <;> rfl
theorem Effect.params_eq : t.params = s.params := by cases h <;> subst t <;> rfl
theorem Effect.moves_eq : t.moves = s.moves := by cases h <;> subst t <;> rfl

/-- G is written by RESAMPLE and RASTERIZE alone (R50). -/
theorem Effect.G_eq_or : t.G = s.G ∨ i = .rasterize ∨ ∃ image m, i = .resample image m := by
  cases h with
  | wroteG image m g hi => exact .inr (.inr ⟨image, m, hi⟩)
  | rasterized image c r hi => exact .inr (.inl hi)
  | _ => subst t; exact .inl rfl

/-- M is written by DITHER and RASTERIZE alone (R50). -/
theorem Effect.M_eq_or : t.M = s.M ∨ i = .rasterize ∨ ∃ src, i = .dither src := by
  cases h with
  | wroteM src g m hi => exact .inr (.inr ⟨src, hi⟩)
  | rasterized image c r hi => exact .inr (.inl hi)
  | _ => subst t; exact .inl rfl

/-- P is written by PACK and RASTERIZE alone (R50). -/
theorem Effect.P_eq_or : t.P = s.P ∨ i = .rasterize ∨ ∃ src, i = .pack src := by
  cases h with
  | wroteP src m p hi => exact .inr (.inr ⟨src, hi⟩)
  | rasterized image c r hi => exact .inr (.inl hi)
  | _ => subst t; exact .inl rfl

/-- The log is written by EMIT, and by an encoder operation of a running job (R180, R211). -/
theorem Effect.txlog_eq_or : t.txlog = s.txlog ∨ (∃ f, i = .emit f) ∨ (isEncoder i = true ∧ s.phase = .run) := by
  cases h with
  | logged f hi hp =>
    obtain rfl | henc := frameOf_some hi
    · exact .inr (.inl ⟨f, rfl⟩)
    · exact .inr (.inr ⟨henc, hp henc⟩)
  | _ => subst t; exact .inl rfl

/-- An operation ends the outstanding call, or leaves it as it was. -/
theorem Effect.txPending_eq_or_none : t.txPending = s.txPending ∨ t.txPending = none := by
  cases h with
  | logged | shortWrite | txFailed => subst t; exact .inr rfl
  | _ => subst t; exact .inl rfl

/-- One operation makes no transport call, or one, for its own frame, which is logged exactly if it was taken whole (R213,
R214). -/
theorem Effect.transport :
    (t.txlog = s.txlog ∧ t.txCalls = s.txCalls ∧ t.txAnswers = s.txAnswers) ∨
    (t.txCalls = s.txCalls + 1 ∧ t.txAnswers = s.txAnswers.tail ∧ t.txPending = none ∧
      ∃ f, f ≠ [] ∧ frameOf s i = some f ∧
        ((t.phase = .fault ∧ s.txAnswer f ≠ .accepted f.length ∧ t.txlog = s.txlog) ∨
         (t.phase = s.phase ∧ s.txAnswer f = .accepted f.length ∧ t.txlog = s.txlog ++ [f]))) := by
  cases h with
  | logged f hi hp hf ha =>
    subst t
    exact .inr ⟨rfl, rfl, rfl, f, hf, hi, .inr ⟨rfl, ha, rfl⟩⟩
  | shortWrite f n hi hp hn ha =>
    subst t
    have hf : f ≠ [] := List.ne_nil_of_length_pos (Nat.zero_lt_of_lt hn)
    exact .inr ⟨rfl, rfl, rfl, f, hf, hi, .inl ⟨rfl, by simp [ha, hn.ne], rfl⟩⟩
  | txFailed f reason hi hp hf ha =>
    subst t
    exact .inr ⟨rfl, rfl, rfl, f, hf, hi, .inl ⟨rfl, by simp [ha], rfl⟩⟩
  | _ => subst t; exact .inl ⟨rfl, rfl, rfl⟩

/-- What a fault that an operation takes records, and that nothing else of the CORE changes by it (R231, R232). -/
theorem Effect.fault (hs : s.phase ≠ .fault) (ht : t.phase = .fault) :
    t = { s with err := t.err, phase := .fault, txAnswers := t.txAnswers, txCalls := t.txCalls, txPending := t.txPending } ∧
    ((i = .rasterize ∧ ∃ reason, s.img = some (.decodeError reason) ∧ t.err = .decodeError reason) ∨
     (∃ src m, i = .pack src ∧ monoOperand s src = .ok m ∧ m.width % 8 ≠ 0 ∧ t.err = .invalidDimension m.width) ∨
     ((isEncoder i = true → s.phase = .run) ∧ ∃ f, frameOf s i = some f ∧ f ≠ [] ∧
      ((∃ reason, s.txAnswer f = .transportError reason ∧ t.err = .transportError reason s.jpc none) ∨
       (∃ n, n < f.length ∧ s.txAnswer f = .accepted n ∧ t.err = .transportError "short write" s.jpc (some n))))) := by
  cases h with
  | undecoded reason hi himg =>
    subst t
    exact ⟨rfl, .inl ⟨hi, reason, himg, rfl⟩⟩
  | badWidth src m hi hm hok hw =>
    subst t
    exact ⟨rfl, .inr (.inl ⟨src, m, hi, hm, hw, rfl⟩)⟩
  | shortWrite f n hi hp hn ha =>
    subst t
    have hf : f ≠ [] := List.ne_nil_of_length_pos (Nat.zero_lt_of_lt hn)
    exact ⟨rfl, .inr (.inr ⟨hp, f, hi, hf, .inr ⟨n, hn, ha, rfl⟩⟩)⟩
  | txFailed f reason hi hp hf ha =>
    subst t
    exact ⟨rfl, .inr (.inr ⟨hp, f, hi, hf, .inl ⟨reason, ha, rfl⟩⟩)⟩
  | _ => subst t; exact absurd ht hs

end

/-! ### The frame of the CORE's step -/

/-- The step of a running job is one operation's effect, its counter moved or kept. -/
theorem coreStep_effect {s t : State} (h : coreStep s = .next t) :
    (s.phase ≠ .run ∧ t = s) ∨
    (s.phase = .run ∧ s.jpc = s.job.length ∧ t = { s with phase := .done }) ∨
    (∃ op u, s.phase = .run ∧ s.job[s.jpc]? = some op ∧ Effect op.toInstr s u ∧
      ((u.phase = .fault ∧ t = u) ∨ (u.phase = .run ∧ t = { u with jpc := s.jpc + 1 }))) := by
  obtain hidle | hend | ⟨op, hp, hop, ha⟩ := coreStep_next h
  · exact .inl hidle
  · exact .inr (.inl hend)
  · obtain ⟨u, hu, hadv⟩ := advance_next ha
    have heff := exec_effect hu
    refine .inr (.inr ⟨op, u, hp, hop, heff, hadv.imp_right fun ⟨hno, ht⟩ => ?_⟩)
    exact ⟨(heff.phase_eq_or_fault.resolve_right hno).trans hp, heff.jpc_eq ▸ ht⟩

/-- The CORE's step leaves the latched inputs and the list of moves (R67). -/
theorem coreStep_frame {s t : State} (h : coreStep s = .next t) :
    t.cfg = s.cfg ∧ t.job = s.job ∧ t.img = s.img ∧ t.moves = s.moves := by
  obtain ⟨-, rfl⟩ | ⟨-, -, rfl⟩ | ⟨op, u, -, -, heff, ⟨-, rfl⟩ | ⟨-, rfl⟩⟩ := coreStep_effect h
  · exact ⟨rfl, rfl, rfl, rfl⟩
  · exact ⟨rfl, rfl, rfl, rfl⟩
  · exact ⟨heff.cfg_eq, heff.job_eq, heff.img_eq, heff.moves_eq⟩
  · exact ⟨heff.cfg_eq, heff.job_eq, heff.img_eq, heff.moves_eq⟩

/-- In a running job a move other than block reset leaves the latched inputs: the host has no other move that writes them. -/
theorem hostStep_run_frame {m : HostMove} {s t : State} (hp : s.phase = .run) (hm : m ≠ .blockReset)
    (h : hostStep m s = .next t) : t.cfg = s.cfg ∧ t.job = s.job ∧ t.img = s.img := by
  have hclosed : ¬ (s.phase = .idle ∨ s.phase = .done) := by simp [hp]
  obtain ⟨-, hcore⟩ | ⟨rfl, -⟩ | ⟨-, hstart⟩ | ⟨-, rfl⟩ | ⟨-, f, -, -, rfl⟩ | ⟨hopen, -⟩ := hostStep_next h
  · obtain ⟨hcfg, hjob, himg, -⟩ := coreStep_frame hcore
    exact ⟨hcfg, hjob, himg⟩
  · exact absurd rfl hm
  · exact absurd (start_next hstart).1 hclosed
  · exact ⟨rfl, rfl, rfl⟩
  · exact ⟨rfl, rfl, rfl⟩
  · exact absurd hopen hclosed

end Sys2Proof.Machine

namespace Sys2Proof.Proofs

open Sys2Proof.Machine

/-- Settles O44, field by field from the endings of an operation. -/
theorem operationsWriteOnlyTheirOwnState : Obligations.OperationsWriteOnlyTheirOwnState := by
  intro i s t h
  have heff := exec_effect h
  exact ⟨heff.G_eq_or.resolve_left, heff.M_eq_or.resolve_left, heff.P_eq_or.resolve_left, heff.txlog_eq_or.resolve_left,
    heff.phase_eq_or_fault, heff.cfg_eq, heff.job_eq, heff.img_eq, heff.cfgIn_eq, heff.jobIn_eq, heff.imgIn_eq,
    heff.params_eq, heff.moves_eq⟩

/-- Settles O45: the CORE's own step writes no latched input, and in RUN the host's moves that do are shut. -/
theorem latchedInputsAreImmutableInRun : Obligations.LatchedInputsAreImmutableInRun := by
  intro s t hp hm h
  cases hmoves : s.moves with
  | nil =>
    rw [step_quiet hmoves] at h
    obtain ⟨hcfg, hjob, himg, -⟩ := coreStep_frame h
    exact ⟨hcfg, hjob, himg⟩
  | cons m rest =>
    rw [step_move hmoves] at h
    exact hostStep_run_frame (s := { s with moves := rest }) hp (by simpa [hmoves] using hm) h

/-- Settles O46: of the endings of an operation, the four that fault are fault entry after the transport's call is over. -/
theorem faultEntryChangesOnlyErrAndPhase : Obligations.FaultEntryChangesOnlyErrAndPhase := by
  intro i s t hs h ht
  obtain ⟨hframe, hcause⟩ := (exec_effect h).fault hs ht
  refine ⟨?_, hframe⟩
  obtain ⟨_, _, _, herr⟩ | ⟨_, _, _, _, _, herr⟩ | ⟨_, _, _, _, ⟨_, _, herr⟩ | ⟨_, _, _, herr⟩⟩ := hcause <;> simp [herr]

/-- Settles O47: the four endings that fault, each with its cause and its record. -/
theorem faultCausesAndRecords : Obligations.FaultCausesAndRecords := by
  intro i s t hs h ht
  obtain ⟨-, ⟨hi, reason, himg, herr⟩ | ⟨src, m, hi, hm, hw, herr⟩ | ⟨hp, f, hf, hne, hrec⟩⟩ := (exec_effect h).fault hs ht
  · exact .inl ⟨hi, by rw [herr]; rfl, reason, himg, herr⟩
  · exact .inr (.inl ⟨by rw [herr]; rfl, src, m, hi, hm, hw, herr⟩)
  · have hcode : t.err.code = 3 := by
      obtain ⟨_, _, herr⟩ | ⟨_, _, _, herr⟩ := hrec <;> rw [herr] <;> rfl
    exact .inr (.inr ⟨hcode, hp, f, hf, hne, hrec⟩)

/-- Settles O32: the running job's step is the effect of the operation at `jpc`, whose frame is the next frame, and an operation
makes one call at most (`Effect.transport`). -/
theorem logGrowsByAcceptedFrames : Obligations.LogGrowsByAcceptedFrames := by
  intro s t hmoves h
  rw [step_quiet hmoves] at h
  obtain ⟨-, rfl⟩ | ⟨-, -, rfl⟩ | ⟨op, u, hp, hop, heff, ht⟩ := coreStep_effect h
  · exact .inl ⟨rfl, rfl, rfl⟩
  · exact .inl ⟨rfl, rfl, rfl⟩
  · have hcall := heff.transport
    rw [← nextFrame_op hp hop, hp] at hcall
    obtain ⟨-, rfl⟩ | ⟨-, rfl⟩ := ht
    · exact hcall
    · exact hcall

end Sys2Proof.Proofs
end

section
/-! The machine's invariant (`Inv`): each of its clauses is kept by an operation's effect, so by the running job's step, by a
transaction, and by every other move of the outside. -/

namespace Sys2Proof.Machine

open Sys2Proof.Safety (Inv)

/-! ### What an operation's effect keeps -/

/-- An operation writes a buffer with what its stage answers, so in its canonical form (R27, R28, R29). -/
theorem Effect.memory_wf {i : Instr} {s t : State} (h : Effect i s t) (hs : Memory.wf s = true) : Memory.wf t = true := by
  cases h with
  | wroteG image m g hi hg => subst t; exact write_G_keeps_wf hs hg
  | wroteM src g m hi hg hm => subst t; exact write_M_keeps_wf hs hm
  | wroteP src m p hi hm hp => subst t; exact write_P_keeps_wf hs hp
  | rasterized image c r hi himg hc hr => subst t; exact write_GMP_wf hr
  | _ => subst t; exact hs

/-- `err` is written by the faults alone, each time with a fault (R31, R232). -/
theorem Effect.fault_iff_err {i : Instr} {s t : State} (h : Effect i s t) (hs : s.phase = .fault ↔ s.err ≠ .none) :
    t.phase = .fault ↔ t.err ≠ .none := by
  cases h with
  | badWidth | undecoded | shortWrite | txFailed => subst t; simp
  | _ => subst t; exact hs

/-- A call that is outstanding when the operation at `jpc` runs is its own, and is over when it has run (R248). -/
theorem pending_over {op : JobOp} {s t : State} (hs : Inv s) (hp : s.phase = .run)
    (hop : s.job[s.jpc]? = some op) (hexec : exec op.toInstr s = .next t) : t.txPending = none := by
  cases hcall : s.txPending with
  | none =>
    obtain hkept | hnone := (exec_effect hexec).txPending_eq_or_none
    · exact hkept.trans hcall
    · exact hnone
  | some f =>
    obtain ⟨hf, hnext⟩ := hs.pendingIsNext f hcall
    rw [nextFrame_op hp hop] at hnext
    rw [exec_frame hp hnext] at hexec
    obtain ⟨hempty, -⟩ | ⟨-, -, rfl⟩ | ⟨n, -, -, rfl⟩ | ⟨reason, -, -, rfl⟩ := emit_next hexec
    · exact absurd hempty hf
    · rfl
    · rfl
    · rfl

/-! ### What a step keeps -/

/-- No call is outstanding where no job runs. -/
theorem pending_none_of_not_run {s : State} (hs : Inv s) (hp : s.phase ≠ .run) : s.txPending = none := by
  cases hcall : s.txPending with
  | none => rfl
  | some f => exact absurd (nextFrame_some (hs.pendingIsNext f hcall).2).1 hp

/-- The invariant does not read the inputs of the next job, the answer, or the list of moves. -/
theorem inv_of_ports {s : State} (hs : Inv s) (cfgIn : Option Cfg) (jobIn : List JobOp) (imgIn : Option DecodeResult)
    (answer : Option Answer) (moves : List HostMove) :
    Inv { s with cfgIn := cfgIn, jobIn := jobIn, imgIn := imgIn, answer := answer, moves := moves } :=
  ⟨hs.faultIffErr, hs.jpcInJob, hs.doneAtEnd, hs.idleEmpty, hs.runHasCfg, hs.memory, hs.pendingIsNext⟩

/-- An operation's effect keeps the invariant, if no call is outstanding after it: it leaves the phase, or faults. -/
theorem Effect.inv {i : Instr} {s t : State} (h : Effect i s t) (hs : Inv s) (hpending : t.txPending = none) : Inv t := by
  have hphase {p : Phase} (ht : t.phase = p) (hp : p ≠ .fault) : s.phase = p :=
    (h.phase_eq_or_fault.resolve_right (ht ▸ hp)).symm.trans ht
  refine ⟨h.fault_iff_err hs.faultIffErr, ?_, fun ht => ?_, fun ht => ?_, fun ht => ?_, h.memory_wf hs.memory,
    by simp [hpending]⟩
  · rw [h.jpc_eq, h.job_eq]
    exact hs.jpcInJob
  · rw [h.jpc_eq, h.job_eq]
    exact hs.doneAtEnd (hphase ht (by decide))
  · rw [h.jpc_eq, h.job_eq]
    exact hs.idleEmpty (hphase ht (by decide))
  · rw [h.cfg_eq]
    exact hs.runHasCfg (hphase ht (by decide))

/-- The running job's step keeps the invariant: the counter moves by one inside the job, and its end is DONE (R24, R217). -/
theorem coreStep_inv {s t : State} (hs : Inv s) (h : coreStep s = .next t) : Inv t := by
  obtain ⟨-, rfl⟩ | ⟨hp, hend, rfl⟩ | ⟨op, hp, hop, ha⟩ := coreStep_next h
  · exact hs
  · have hnext : s.nextFrame = none := by simp [State.nextFrame, hend]
    have hpending : s.txPending = none := by
      cases hcall : s.txPending with
      | none => rfl
      | some f => simpa [hnext] using (hs.pendingIsNext f hcall).2
    have herr := hs.faultIffErr
    rw [hp] at herr
    exact ⟨by simpa using herr, hs.jpcInJob, fun _ => hend, by simp, by simp, hs.memory, by simp [hpending]⟩
  · obtain ⟨u, hu, hadv⟩ := advance_next ha
    have heff := exec_effect hu
    have hpending := pending_over hs hp hop hu
    have hu : Inv u := heff.inv hs hpending
    obtain ⟨-, rfl⟩ | ⟨hno, rfl⟩ := hadv
    · exact hu
    · have hrun : u.phase = .run := (heff.phase_eq_or_fault.resolve_right hno).trans hp
      have hlt : u.jpc + 1 ≤ u.job.length := by
        rw [heff.jpc_eq, heff.job_eq]
        exact (List.getElem?_eq_some_iff.1 hop).1
      exact ⟨hu.faultIffErr, hlt, by simp [hrun], by simp [hrun], hu.runHasCfg, hu.memory, by simp [hpending]⟩

theorem reset_inv : Inv State.reset :=
  ⟨by simp, by simp, by simp, by simp, by simp, reset_memory_wf, by simp⟩

/-- Every move of the outside keeps the invariant. -/
theorem hostStep_inv {m : HostMove} {s t : State} (hs : Inv s) (h : hostStep m s = .next t) : Inv t := by
  obtain ⟨-, hcore⟩ | ⟨-, rfl⟩ | ⟨-, hstart⟩ | ⟨-, rfl⟩ | ⟨-, f, hf, hnext, rfl⟩ | ⟨hopen, hmove⟩ := hostStep_next h
  · exact coreStep_inv hs hcore
  · exact ⟨by simp, by simp, by simp, by simp, by simp, reset_memory_wf, by simp⟩
  · obtain ⟨hopen, hcfg, rfl⟩ := start_next hstart
    have hrun : s.phase ≠ .run := by rintro hp; simp [hp] at hopen
    exact ⟨by simp, Nat.zero_le _, by simp, by simp, fun _ => hcfg, rfl, by simp [pending_none_of_not_run hs hrun]⟩
  · exact inv_of_ports hs _ _ _ _ _
  · refine ⟨hs.faultIffErr, hs.jpcInJob, hs.doneAtEnd, hs.idleEmpty, hs.runHasCfg, hs.memory, fun g hg => ?_⟩
    cases hg
    exact ⟨hf, hnext⟩
  · obtain ⟨c, -, rfl⟩ | ⟨ops, job, -, -, rfl⟩ | ⟨r, -, rfl⟩ | ⟨i, -, hexec⟩ := hmove
    · exact inv_of_ports hs _ _ _ _ _
    · exact inv_of_ports hs _ _ _ _ _
    · exact inv_of_ports hs _ _ _ _ _
    · have hrun : s.phase ≠ .run := by rintro hp; simp [hp] at hopen
      have heff := exec_effect hexec
      exact heff.inv hs (heff.txPending_eq_or_none.elim (·.trans (pending_none_of_not_run hs hrun)) id)

end Sys2Proof.Machine

namespace Sys2Proof.Proofs

open Sys2Proof.Machine Sys2Proof.Safety

/-- Settles O59, clause by clause. -/
theorem resetHasTheInvariant : Obligations.ResetHasTheInvariant := reset_inv

/-- Settles O60: the CORE's own step and every move of the outside keep the invariant. -/
theorem everyStepKeepsTheInvariant : Obligations.EveryStepKeepsTheInvariant := by
  intro s t hs h
  cases hmoves : s.moves with
  | nil =>
    rw [step_quiet hmoves] at h
    exact coreStep_inv hs h
  | cons m rest =>
    rw [step_move hmoves] at h
    exact hostStep_inv (inv_of_ports hs s.cfgIn s.jobIn s.imgIn s.answer rest) h

/-- Settles O55: the read is a move of its own, and the invariant ties the record to the phase. -/
theorem statusReportsPhaseErrAndCounter : Obligations.StatusReportsPhaseErrAndCounter := by
  intro s rest hs
  refine ⟨fun hmoves => step_move hmoves, fun hdone => ?_, fun hfault => ?_⟩
  · have herr : s.err = .none := by
      by_contra hne
      simpa [hdone] using hs.faultIffErr.2 hne
    rw [herr]
    rfl
  · have hne := hs.faultIffErr.1 hfault
    cases herr : s.err with
    | none => exact absurd herr hne
    | decodeError | invalidDimension | transportError => simp [ErrRec.code]

end Sys2Proof.Proofs
end

section
/-! Runs of the CORE on its own (R211, R217): what a step of a running job comes to, that FAULT and DONE are endings, and that a
job whose frames are all taken logs them in order. -/

namespace Sys2Proof.Machine

open Host (Outcome)
open Sys2Proof.Safety (ended)

/-! ### One step -/

theorem advance_next_of_fault {t : State} (h : t.phase = .fault) : advance (.next t) = .next t := by
  simp [advance, h]

theorem advance_next_of_ne {t : State} (h : t.phase ≠ .fault) :
    advance (.next t) = .next { t with jpc := t.jpc + 1 } := by
  simp [advance, h]

/-- A step of a running job at an operation of it (R211). -/
theorem step_op {s : State} {op : JobOp} (hmoves : s.moves = []) (hp : s.phase = .run) (hop : s.job[s.jpc]? = some op) :
    step s = advance (exec op.toInstr s) := by
  rw [step_quiet hmoves, coreStep_op hp hop]

theorem toInstr_eq_rasterize {op : JobOp} (h : op.toInstr = .rasterize) : op = .rasterize := by
  cases op <;> cases h
  rfl

/-- A job operation other than RASTERIZE leaves the buffers (R50). -/
theorem Effect.buffers_eq {op : JobOp} {s t : State} (h : Effect op.toInstr s t) (hop : op ≠ .rasterize) :
    t.G = s.G ∧ t.M = s.M ∧ t.P = s.P := by
  cases h with
  | wroteG image m g hi | wroteM src g m hi | wroteP src m p hi => cases op <;> cases hi
  | rasterized image c r hi => exact absurd (toInstr_eq_rasterize hi) hop
  | _ => subst t; exact ⟨rfl, rfl, rfl⟩

/-! ### No operation stops the model -/

theorem settle_ne_fault {α : Type} (s : State) (x : Except Stop α) (k : α → State) (r : Fault) : s.settle x k ≠ .fault r := by
  cases x with
  | ok a => simp
  | error e => cases e <;> simp

theorem interpret_ne_fault (s : State) (f : List Byte) (a : TxResult) (r : Fault) : s.interpret f a ≠ .fault r := by
  cases a with
  | accepted n =>
    rw [interpret_accepted]
    split
    · simp
    · split <;> simp
  | transportError reason => nofun

theorem emit_ne_fault (s : State) (f : List Byte) (r : Fault) : s.emit f ≠ .fault r := by
  unfold State.emit
  split
  · simp
  · exact interpret_ne_fault _ _ _ _

theorem deliver_ne_fault (s : State) (x : Except Stop (List Byte)) (r : Fault) : s.deliver x ≠ .fault r := by
  cases x with
  | ok f =>
    by_cases hp : s.phase = .run
    · rw [deliver_running hp]
      exact emit_ne_fault s f r
    · simp [deliver_outside hp]
  | error e => cases e <;> nofun

/-- The one stop of the model is the sequencer's (log entry 13). -/
theorem exec_ne_fault (i : Instr) (s : State) (r : Fault) : exec i s ≠ .fault r := by
  cases i with
  | normalize | luminance | resample | dither | pack | unpack | rasterize => exact settle_ne_fault _ _ _ _
  | reset | setTextStyle | writeText => exact deliver_ne_fault s (.ok _) r
  | setAlignment | feedLines | feedDots | bitmapBlock => exact deliver_ne_fault _ _ _
  | emit f => exact emit_ne_fault s f r

/-! ### Runs -/

/-- In FAULT and DONE the CORE on its own stays (R217, R239). -/
theorem run_stays {s : State} (hmoves : s.moves = []) (hp : s.phase ≠ .run) (n : Nat) :
    Host.Core.run Sys2Proof.core n s = .next s := by
  induction n with
  | zero => rfl
  | succ n ih =>
    rw [run_next ((step_quiet hmoves).trans (coreStep_idle hp)), ih]

theorem run_refused {s : State} {r : Refusal} (h : step s = .refused r) (n : Nat) :
    Host.Core.run Sys2Proof.core (n + 1) s = .refused r := by
  have h' : Sys2Proof.core.step s = .refused r := h
  simp only [Host.Core.run, h']

/-- A running job ends within one step more than the operations it still has (R217). -/
theorem run_ended (n : Nat) {s : State} (hmoves : s.moves = []) (hp : s.phase = .run) (hn : s.jpc + n = s.job.length) :
    ended (Host.Core.run Sys2Proof.core (n + 1) s) := by
  induction n generalizing s with
  | zero =>
    rw [run_next ((step_quiet hmoves).trans (coreStep_end hp hn))]
    exact .inl rfl
  | succ n ih =>
    have hlt : s.jpc < s.job.length := by omega
    have hstep := step_op hmoves hp (List.getElem?_eq_getElem hlt)
    cases hexec : exec s.job[s.jpc].toInstr s with
    | fault r => exact absurd hexec (exec_ne_fault _ _ r)
    | refused r =>
      rw [hexec] at hstep
      rw [run_refused hstep]
      trivial
    | next u =>
      have heff := exec_effect hexec
      rw [hexec] at hstep
      by_cases hu : u.phase = .fault
      · rw [advance_next_of_fault hu] at hstep
        rw [run_next hstep, run_stays (heff.moves_eq.trans hmoves) (by simp [hu])]
        exact .inr hu
      · rw [advance_next_of_ne hu] at hstep
        rw [run_next hstep]
        refine ih (heff.moves_eq.trans hmoves) ((heff.phase_eq_or_fault.resolve_right hu).trans hp) ?_
        show u.jpc + 1 + n = u.job.length
        rw [heff.jpc_eq, heff.job_eq]
        omega

end Sys2Proof.Machine

namespace Sys2Proof.Proofs

open Sys2Proof.Machine Sys2Proof.Safety

/-- Settles O37: the step is `advance` of the operation at `jpc`, and no operation moves `jpc` itself. -/
theorem stepRunsTheJobOperation : Obligations.StepRunsTheJobOperation := by
  intro s hmoves hp
  refine ⟨fun hend => (step_quiet hmoves).trans (coreStep_end hp hend), fun op hop => ?_⟩
  rw [step_op hmoves hp hop]
  refine ⟨fun t ht hno => ?_, fun t ht hfault => ?_, fun r hr => by rw [hr]; rfl⟩
  · rw [ht, advance_next_of_ne hno, (exec_effect ht).jpc_eq]
  · rw [ht, advance_next_of_fault hfault]

/-- Settles O43: RASTERIZE commits the results of its image path, the other job operations write no buffer, and a fault writes
none. -/
theorem onlyRasterizeWritesBuffersInAJob : Obligations.OnlyRasterizeWritesBuffersInAJob := by
  intro s t op hmoves hp hop h
  rw [step_op hmoves hp hop] at h
  obtain ⟨u, hu, hadv⟩ := advance_next h
  obtain ⟨htG, htM, htP, htp⟩ : t.G = u.G ∧ t.M = u.M ∧ t.P = u.P ∧ t.phase = u.phase := by
    obtain ⟨-, rfl⟩ | ⟨-, rfl⟩ := hadv <;> exact ⟨rfl, rfl, rfl, rfl⟩
  rw [htG, htM, htP, htp]
  refine ⟨(exec_effect hu).buffers_eq, ?_, fun hfault => ?_⟩
  · rintro rfl hrun
    obtain ⟨⟨g, m, p⟩, hr, rfl⟩ | ⟨e, -, rfl⟩ := settle_next hu
    · exact ⟨g, m, p, hr, rfl, rfl, rfl⟩
    · cases hrun
  · obtain ⟨hframe, -⟩ := (exec_effect hu).fault (by simp [hp]) hfault
    rw [hframe]
    exact ⟨rfl, rfl, rfl⟩

/-- Settles O49: the step keeps the empty list of moves, and in FAULT the CORE stays (`run_stays`). -/
theorem faultStopsTheJob : Obligations.FaultStopsTheJob := by
  intro s t n hmoves _ h hfault
  have hcore := h
  rw [step_quiet hmoves] at hcore
  obtain ⟨-, -, -, htm⟩ := coreStep_frame hcore
  rw [run_next h]
  exact run_stays (htm.trans hmoves) (by simp [hfault]) n

/-- Settles O57, by induction on the operations still to run. -/
theorem everyRunEnds : Obligations.EveryRunEnds :=
  fun _ hmoves hp hj => run_ended _ hmoves hp (Nat.add_sub_cancel' hj)

end Sys2Proof.Proofs
end

section
/-! The frames of a job (R211, R218): the frame an operation hands to EMIT is the encoding's, and a job whose every frame the
transport takes whole logs them in job order. -/

namespace Sys2Proof.Machine

open Sys2Proof.Safety (jobFrame)

/-! ### The frames are the encodings -/

/-- BITMAP_BLOCK's checked frame (R190) is the encoding of its operands. -/
theorem bitmapFrame_toOption (modes : ModeMap) (mode : BitmapMode) (w h : Nat) (p : PackedBitmap) :
    (bitmapFrame modes mode w h p).toOption = encode modes (.bitmapBlock mode (.given w h p)) := by
  unfold bitmapFrame
  cases hm : mode.ordinal? modes with
  | none => simp [encode, hm, Except.toOption]
  | some m =>
    by_cases hagrees : p.agrees w h = true
    · by_cases hrange : headerInRange w h = true
      · simp [encode, hm, hagrees, hrange, Except.toOption]
      · simp [encode, hagrees, hrange, Except.toOption]
    · simp [encode, hagrees, Except.toOption]

theorem alignmentFrame_toOption (modes : ModeMap) (a : Nat) :
    (alignmentFrame a).toOption = encode modes (.setAlignment a) := by
  unfold alignmentFrame
  cases h : Alignment.ofOrdinal? a <;> simp [encode, h, Except.toOption]

theorem feedLinesFrame_toOption (modes : ModeMap) (n : Nat) :
    (feedFrame 0x64#8 n).toOption = encode modes (.feedLines n) := by
  unfold feedFrame
  cases h : byteOperand? n <;> simp [encode, h, Except.toOption]

theorem feedDotsFrame_toOption (modes : ModeMap) (n : Nat) :
    (feedFrame 0x4a#8 n).toOption = encode modes (.feedDots n) := by
  unfold feedFrame
  cases h : byteOperand? n <;> simp [encode, h, Except.toOption]

/-- Of the styles, the all-default one alone has no frame (R185). -/
theorem jobFrame_style (s : State) (b u dw dh : Bool) :
    jobFrame s (.setTextStyle b u dw dh) = some (styleFrame b u dw dh) := by
  cases b <;> cases u <;> cases dw <;> cases dh <;> rfl

/-- The frame of a job operation by the encodings is the one it hands to EMIT. -/
theorem frameOf_eq_jobFrame (s : State) (op : JobOp) : frameOf s op.toInstr = jobFrame s op := by
  cases op with
  | rasterize | reset | writeText => rfl
  | setTextStyle b u dw dh => exact (jobFrame_style s b u dw dh).symm
  | setAlignment a => exact alignmentFrame_toOption s.params.bitmapModeExtra _
  | feedLines n => exact feedLinesFrame_toOption s.params.bitmapModeExtra _
  | feedDots n => exact feedDotsFrame_toOption s.params.bitmapModeExtra _
  | bitmapBlock mode =>
    rw [jobFrame, JobOp.toInstr, frameOf, bitmapOperation]
    cases s.P with
    | none => rfl
    | some p => exact bitmapFrame_toOption _ _ _ _ _

/-! ### A job whose frames are all taken -/

/-- The frames that are sent: the empty ones are not (R215). -/
def sentFrames (frames : List (List Byte)) : List (List Byte) := frames.filter (fun f => f ≠ [])

theorem sentFrames_nil_cons (frames : List (List Byte)) : sentFrames ([] :: frames) = sentFrames frames := by
  simp [sentFrames]

theorem sentFrames_cons {f : List Byte} (hf : f ≠ []) (frames : List (List Byte)) :
    sentFrames (f :: frames) = f :: sentFrames frames := by
  simp [sentFrames, hf]

/-- The end of a job from `s` whose remaining frames were all taken. -/
def State.afterFrames (s : State) (frames : List (List Byte)) : State :=
  { s with phase := .done, jpc := s.job.length, txlog := s.txlog ++ sentFrames frames
           txAnswers := [], txCalls := s.txCalls + (sentFrames frames).length
           txPending := if sentFrames frames = [] then s.txPending else none }

/-- A step of a running job at an operation whose frame is empty (R215). -/
theorem step_unsent {s : State} {op : JobOp} (hmoves : s.moves = []) (hp : s.phase = .run)
    (hop : s.job[s.jpc]? = some op) (hf : jobFrame s op = some []) : step s = .next { s with jpc := s.jpc + 1 } := by
  rw [← frameOf_eq_jobFrame] at hf
  rw [step_op hmoves hp hop, exec_frame hp hf, emit_empty, advance_next_of_ne (by simp [hp])]

/-- A step of a running job at an operation whose frame is taken whole (R213, R214). -/
theorem step_logged {s : State} {op : JobOp} {f : List Byte} (hmoves : s.moves = []) (hp : s.phase = .run)
    (hop : s.job[s.jpc]? = some op) (hjf : jobFrame s op = some f) (hf : f ≠ [])
    (ha : s.txAnswer f = .accepted f.length) :
    step s = .next { s.sent with txlog := s.txlog ++ [f], jpc := s.jpc + 1 } := by
  rw [← frameOf_eq_jobFrame] at hjf
  rw [step_op hmoves hp hop, exec_frame hp hjf, emit_accepted hf ha, advance_next_of_ne (by simp [hp])]
  rfl

/-- A job whose remaining frames are all taken logs them in order and ends in DONE (R217, R214). -/
theorem run_accepted {s : State} {frames : List (List Byte)} (hmoves : s.moves = []) (hp : s.phase = .run)
    (hj : s.jpc ≤ s.job.length) (hframes : (s.job.drop s.jpc).map (jobFrame s) = frames.map some)
    (ha : s.txAnswers = (sentFrames frames).map (fun f => .accepted f.length)) :
    Host.Core.run Sys2Proof.core (frames.length + 1) s = .next (s.afterFrames frames) := by
  induction frames generalizing s with
  | nil =>
    have hend : s.jpc = s.job.length := by
      have hdrop : s.job.drop s.jpc = [] := by simpa using hframes
      exact hj.antisymm (List.drop_eq_nil_iff.1 hdrop)
    rw [run_next ((step_quiet hmoves).trans (coreStep_end hp hend))]
    simp [Host.Core.run, State.afterFrames, sentFrames, ← hend, ha]
  | cons f frames ih =>
    have hlt : s.jpc < s.job.length := by
      by_contra hge
      simp [List.drop_eq_nil_iff.2 (Nat.le_of_not_lt hge)] at hframes
    rw [List.drop_eq_getElem_cons hlt, List.map_cons, List.map_cons, List.cons.injEq] at hframes
    obtain ⟨hf, hframes⟩ := hframes
    have hop : s.job[s.jpc]? = some s.job[s.jpc] := List.getElem?_eq_getElem hlt
    by_cases hempty : f = []
    · subst hempty
      rw [sentFrames_nil_cons] at ha
      rw [List.length_cons, run_next (step_unsent hmoves hp hop hf),
        ih (s := { s with jpc := s.jpc + 1 }) hmoves hp hlt hframes ha]
      simp only [State.afterFrames, sentFrames_nil_cons]
    · rw [sentFrames_cons hempty, List.map_cons] at ha
      have hanswer : s.txAnswer f = .accepted f.length := by rw [State.txAnswer, ha]
      rw [List.length_cons, run_next (step_logged hmoves hp hop hf hempty hanswer),
        ih (s := { s.sent with txlog := s.txlog ++ [f], jpc := s.jpc + 1 }) hmoves hp hlt hframes
          (congrArg List.tail ha)]
      simp [State.afterFrames, sentFrames_cons hempty, Nat.add_assoc, Nat.add_comm 1]

/-! ### A decode error -/

/-- RASTERIZE takes the decode error of the latched image (R212, R238). -/
theorem exec_rasterize_decodeError {s : State} {cfg : Cfg} {reason : String} (hcfg : s.cfg = some cfg)
    (himg : s.img = some (.decodeError reason)) : exec .rasterize s = .next (s.raise (.decodeError reason)) := by
  have hr : rasterize s = .error (.raise (.decodeError reason)) := by simp [rasterize, himg, hcfg]
  show s.settle (rasterize s) _ = _
  rw [hr, settle_raise]

/-- At RASTERIZE a decode error ends the run in FAULT. -/
theorem run_decodeError {s : State} {cfg : Cfg} {reason : String} (hmoves : s.moves = []) (hp : s.phase = .run)
    (hop : s.job[s.jpc]? = some .rasterize) (hcfg : s.cfg = some cfg) (himg : s.img = some (.decodeError reason)) (n : Nat) :
    Host.Core.run Sys2Proof.core (n + 1) s = .next (s.raise (.decodeError reason)) := by
  have hstep : step s = .next (s.raise (.decodeError reason)) := by
    rw [step_op hmoves hp hop, JobOp.toInstr, exec_rasterize_decodeError hcfg himg, advance_next_of_fault rfl]
  rw [run_next hstep]
  exact run_stays (s := s.raise _) hmoves (by simp) n

end Sys2Proof.Machine

namespace Sys2Proof.Proofs

open Sys2Proof.Machine

/-- Settles O58, by induction on the frames still to send. -/
theorem acceptedJobSendsItsFramesInOrder : Obligations.AcceptedJobSendsItsFramesInOrder := by
  intro s frames hmoves hp hj hlog hframes ha
  have hlen : s.job.length = frames.length := by simpa using congrArg List.length hframes
  have hrun := run_accepted hmoves hp (by omega) (by rwa [hj, List.drop_zero]) ha
  rw [hlen, hrun, State.afterFrames, hlog, hlen]
  rfl

/-- Settles O50: START latches the inputs, RASTERIZE comes first and takes the decode error, and the CORE stays in FAULT. -/
theorem decodeErrorAbortsBeforeAnyFrame : Obligations.DecodeErrorAbortsBeforeAnyFrame := by
  intro s cfg reason a st mode feed n hp hmoves hcfg himg hjob
  have hstart := step_move hmoves
  rw [hostStep, State.start, if_pos ⟨.inl hp, by simp [hcfg]⟩] at hstart
  rw [run_next hstart]
  exact ⟨_, run_decodeError rfl rfl (by rw [hjob]; rfl) hcfg himg n, rfl, rfl, rfl, rfl, rfl, rfl, rfl, rfl⟩

end Sys2Proof.Proofs
end

section
/-! The typed job (R210, R94): a job operation and the operation it spells determine each other, so a list of operations spells
one job at most; and the canonical jobs (R218) are the expansions of PRINT_IMAGE and
PRINT_TEXT. -/

namespace Sys2Proof

/-- An operation is taken into a job as itself, its operands in their types (R210). -/
theorem JobOp.ofInstr?_eq_some {modes : ModeMap} {i : Instr} {op : JobOp} (h : JobOp.ofInstr? modes i = some op) :
    op.toInstr = i ∧ i.wf modes = true := by
  cases i with
  | normalize | luminance | resample | dither | pack | unpack | emit => cases h
  | reset | rasterize | setTextStyle | writeText => cases h; exact ⟨rfl, rfl⟩
  | setAlignment n =>
    obtain ⟨a, ha, rfl⟩ := Option.map_eq_some_iff.1 h
    obtain rfl := Alignment.ofOrdinal?_eq_some_iff.1 ha
    exact ⟨rfl, by simp [Instr.wf]⟩
  | feedLines n =>
    obtain ⟨v, hv, rfl⟩ := Option.map_eq_some_iff.1 h
    obtain rfl := byteOperand?_eq_some_iff.1 hv
    exact ⟨rfl, by simp [Instr.wf, v.isLt]⟩
  | feedDots n =>
    obtain ⟨v, hv, rfl⟩ := Option.map_eq_some_iff.1 h
    obtain rfl := byteOperand?_eq_some_iff.1 hv
    exact ⟨rfl, by simp [Instr.wf, v.isLt]⟩
  | bitmapBlock mode operands =>
    cases operands with
    | given => cases h
    | fromP =>
      obtain ⟨m, hm, rfl⟩ := Option.map_eq_some_iff.1 h
      exact ⟨rfl, by simp [Instr.wf, BitmapOperands.wf, hm]⟩

/-- A well-formed job operation is taken (R210). -/
theorem JobOp.ofInstr?_toInstr {modes : ModeMap} {op : JobOp} (h : op.toInstr.wf modes = true) :
    JobOp.ofInstr? modes op.toInstr = some op := by
  cases op with
  | rasterize | reset | setTextStyle | writeText => rfl
  | setAlignment a => simp [JobOp.toInstr, JobOp.ofInstr?]
  | feedLines n => simp [JobOp.toInstr, JobOp.ofInstr?]
  | feedDots n => simp [JobOp.toInstr, JobOp.ofInstr?]
  | bitmapBlock mode =>
    simp only [JobOp.toInstr, Instr.wf, BitmapOperands.wf, Bool.and_true] at h
    obtain ⟨m, hm⟩ := Option.isSome_iff_exists.1 h
    simp [JobOp.toInstr, JobOp.ofInstr?, hm]

theorem JobOp.ofInstr?_eq_some_iff {modes : ModeMap} {i : Instr} {op : JobOp} :
    JobOp.ofInstr? modes i = some op ↔ op.toInstr = i ∧ op.toInstr.wf modes = true := by
  constructor
  · intro h
    obtain ⟨rfl, hwf⟩ := JobOp.ofInstr?_eq_some h
    exact ⟨rfl, hwf⟩
  · rintro ⟨rfl, hwf⟩
    exact JobOp.ofInstr?_toInstr hwf

theorem jobOfInstrs?_cons_eq_some_iff {modes : ModeMap} {i : Instr} {ops : List Instr} {job : List JobOp} :
    jobOfInstrs? modes (i :: ops) = some job ↔
      ∃ op rest, JobOp.ofInstr? modes i = some op ∧ jobOfInstrs? modes ops = some rest ∧ job = op :: rest := by
  rw [jobOfInstrs?]
  cases JobOp.ofInstr? modes i <;> cases jobOfInstrs? modes ops <;> simp [eq_comm]

/-- A list is taken as the job it spells (R210). -/
theorem jobOfInstrs?_eq_some_iff {modes : ModeMap} {ops : List Instr} {job : List JobOp} :
    jobOfInstrs? modes ops = some job ↔ job.map JobOp.toInstr = ops ∧ ∀ op ∈ job, op.toInstr.wf modes = true := by
  induction ops generalizing job with
  | nil => cases job <;> simp [jobOfInstrs?]
  | cons i ops ih =>
    simp only [jobOfInstrs?_cons_eq_some_iff, JobOp.ofInstr?_eq_some_iff, ih]
    constructor
    · rintro ⟨op, rest, ⟨rfl, hop⟩, ⟨rfl, hrest⟩, rfl⟩
      exact ⟨rfl, List.forall_mem_cons.2 ⟨hop, hrest⟩⟩
    · rintro ⟨hmap, hwf⟩
      obtain ⟨op, rest, rfl, hop, hrest⟩ := List.map_eq_cons_iff.1 hmap
      obtain ⟨hopwf, hrestwf⟩ := List.forall_mem_cons.1 hwf
      exact ⟨op, rest, ⟨hop, hopwf⟩, ⟨hrest, hrestwf⟩, rfl⟩

end Sys2Proof

namespace Sys2Proof.Machine

theorem whenOpen_of_open {s : State} (h : s.phase = .idle ∨ s.phase = .done) (o : Host.Outcome State Fault Refusal) :
    s.whenOpen o = o := if_pos h

theorem whenOpen_of_not_open {s : State} (h : ¬ (s.phase = .idle ∨ s.phase = .done))
    (o : Host.Outcome State Fault Refusal) : s.whenOpen o = .refused .hostMoveNotAdmitted := if_neg h

theorem writeJob_some {s : State} {ops : List Instr} {job : List JobOp}
    (h : jobOfInstrs? s.params.bitmapModeExtra ops = some job) : s.writeJob ops = .next { s with jobIn := job } := by
  simp [State.writeJob, h]

theorem writeJob_none {s : State} {ops : List Instr} (h : jobOfInstrs? s.params.bitmapModeExtra ops = none) :
    s.writeJob ops = .refused .operand := by
  simp [State.writeJob, h]

/-- The feed operations are the feed operands of PRINT_IMAGE and PRINT_TEXT (R93, R218). -/
theorem isFeed_iff {op : JobOp} : isFeed op = true ↔ ∃ feed : Feed, op = feed.op := by
  constructor
  · intro h
    cases op with
    | feedLines n => exact ⟨.lines n, rfl⟩
    | feedDots n => exact ⟨.dots n, rfl⟩
    | _ => cases h
  · rintro ⟨feed, rfl⟩
    cases feed <;> rfl

end Sys2Proof.Machine

namespace Sys2Proof.Proofs

open Sys2Proof.Machine

/-- Settles O52: taking an operation into a job and spelling it out again undo each other, so a list spells one job at most. -/
theorem jobsHoldExactlyTheTypedOperations : Obligations.JobsHoldExactlyTheTypedOperations := by
  refine ⟨fun modes => ⟨fun i op => JobOp.ofInstr?_eq_some, fun i hnone => ?_, fun op => JobOp.ofInstr?_toInstr,
    fun ops job => jobOfInstrs?_eq_some_iff⟩, fun s ops rest hopen hmoves => ?_⟩
  · by_cases hop : ∃ op : JobOp, op.toInstr = i
    · obtain ⟨op, rfl⟩ := hop
      refine .inl (Bool.eq_false_iff.2 fun hwf => ?_)
      rw [JobOp.ofInstr?_toInstr hwf] at hnone
      cases hnone
    · exact .inr (not_exists.1 hop)
  · rw [step_move hmoves, hostStep, whenOpen_of_open (s := { s with moves := rest }) hopen]
    refine ⟨fun job hmap hwf => writeJob_some (s := { s with moves := rest }) (jobOfInstrs?_eq_some_iff.2 ⟨hmap, hwf⟩),
      fun hill => writeJob_none (s := { s with moves := rest }) ?_⟩
    cases htaken : jobOfInstrs? s.params.bitmapModeExtra ops with
    | none => rfl
    | some job =>
      obtain ⟨hmap, hwf⟩ := jobOfInstrs?_eq_some_iff.1 htaken
      obtain ⟨op, hop, hbad⟩ := hill job hmap
      rw [hwf op hop] at hbad
      cases hbad

/-- Settles O56: the shapes of R218 leave free exactly the operands that R219 and R220 take. -/
theorem canonicalJobsAreTheMacros : Obligations.CanonicalJobsAreTheMacros := by
  intro job
  constructor
  · intro h
    unfold canonicalJob at h
    split at h
    next a b u dw dh mode feedOp =>
      obtain ⟨feed, rfl⟩ := isFeed_iff.1 h
      exact .inl ⟨a, ⟨b, u, dw, dh⟩, mode, feed, rfl⟩
    next a b u dw dh text feedOp =>
      obtain ⟨feed, rfl⟩ := isFeed_iff.1 h
      exact .inr ⟨a, ⟨b, u, dw, dh⟩, text, feed, rfl⟩
    next => cases h
  · rintro (⟨a, st, mode, feed, rfl⟩ | ⟨a, st, text, feed, rfl⟩)
    · exact isFeed_iff.2 ⟨feed, rfl⟩
    · exact isFeed_iff.2 ⟨feed, rfl⟩

end Sys2Proof.Proofs
end

section
/-! The encoder operations and EMIT (R180 to R191, R213 to R215): what `deliver` makes of a frame is said once
(`yieldsFrame_of_deliver`), and each operation's frame and its refusals are equations of their own. -/

namespace Sys2Proof.Machine

open Sys2Proof.Safety (yieldsFrame)

/-! ### EMIT -/

/-- EMIT of a frame that is not empty is one call, read by `interpret` (R213, R214). -/
theorem emit_of_ne {s : State} {f : List Byte} (hf : f ≠ []) : s.emit f = s.sent.interpret f (s.txAnswer f) := if_neg hf

/-- The one refusal of EMIT (R214). -/
theorem emit_refused {s : State} {f : List Byte} {r : Refusal} (h : s.emit f = .refused r) : r = .txProtocol := by
  by_cases hf : f = []
  · simp [hf] at h
  · rw [emit_of_ne hf] at h
    cases ha : s.txAnswer f with
    | transportError reason =>
      rw [ha] at h
      cases h
    | accepted n =>
      rw [ha, interpret_accepted] at h
      split at h
      · cases h
      · split at h
        · cases h
        · cases h
          rfl

/-! ### The delivery of a frame -/

/-- An operation that delivers `f` yields it: returned outside a job, emitted in one (R180, R211). -/
theorem yieldsFrame_of_deliver {i : Instr} {s : State} {f : List Byte} (h : exec i s = s.deliver (.ok f)) :
    yieldsFrame i s f := by
  have hemit (hp : s.phase = .run) : exec i s = s.emit f := h.trans (deliver_running hp)
  refine ⟨fun hp => h.trans (deliver_outside hp), fun hp hf ha => ?_, fun hp hf => ?_, hemit⟩
  · exact (hemit hp).trans (emit_accepted hf ha)
  · rw [hemit hp, hf, emit_empty]

/-- A refusal is the frame's own, or EMIT's. -/
theorem deliver_refused {s : State} {x : Except Stop (List Byte)} {r : Refusal} (h : s.deliver x = .refused r) :
    x = .error (.refuse r) ∨ r = .txProtocol := by
  match x, h with
  | .ok f, h =>
    by_cases hp : s.phase = .run
    · rw [deliver_running hp] at h
      exact .inr (emit_refused h)
    · rw [deliver_outside hp] at h
      cases h
  | .error (.refuse r'), h =>
    cases h
    exact .inl rfl

/-! ### The frames -/

/-- A number that is no ordinal is refused (R94, R183). -/
theorem exec_setAlignment_refused {n : Nat} (h : ∀ a : Alignment, a.ordinal.toNat ≠ n) (s : State) :
    exec (.setAlignment n) s = .refused .operand := by
  have hnone : Alignment.ofOrdinal? n = none := by
    cases ha : Alignment.ofOrdinal? n with
    | none => rfl
    | some a => exact absurd (Alignment.ofOrdinal?_eq_some_iff.1 ha) (h a)
  show s.deliver (alignmentFrame n) = _
  rw [alignmentFrame, hnone, deliver_refuse]

theorem feedFrame_byte (op : Byte) {n : Nat} (h : n ≤ 255) : feedFrame op n = .ok [0x1b#8, op, BitVec.ofNat 8 n] := by
  rw [feedFrame, byteOperand?, if_pos (Nat.lt_succ_of_le h)]

/-- A count above 255 is refused (R94). -/
theorem feedFrame_refused (op : Byte) {n : Nat} (h : 255 < n) : feedFrame op n = .error (.refuse .operand) := by
  rw [feedFrame, byteOperand?, if_neg (Nat.not_lt.2 h)]

theorem exec_feedLines_refused {n : Nat} (h : 255 < n) (s : State) : exec (.feedLines n) s = .refused .operand :=
  congrArg s.deliver (feedFrame_refused 0x64#8 h)

theorem exec_feedDots_refused {n : Nat} (h : 255 < n) (s : State) : exec (.feedDots n) s = .refused .operand :=
  congrArg s.deliver (feedFrame_refused 0x4a#8 h)

theorem styleFlags_bits (bold underline doubleWidth doubleHeight : Bool) :
    let f := styleFlags bold underline doubleWidth doubleHeight
    (f.getLsbD 3 = bold ∧ f.getLsbD 4 = doubleHeight ∧ f.getLsbD 5 = doubleWidth ∧ f.getLsbD 7 = underline ∧
      f.getLsbD 0 = false ∧ f.getLsbD 1 = false ∧ f.getLsbD 2 = false ∧ f.getLsbD 6 = false) ∧
    (f = 0x00#8 ↔ bold = false ∧ underline = false ∧ doubleWidth = false ∧ doubleHeight = false) := by
  revert bold underline doubleWidth doubleHeight
  decide

/-! ### The bitmap frame and its checks -/

theorem PackedBitmap.agrees_iff (p : PackedBitmap) (width height : Nat) :
    p.agrees width height = true ↔
      width = p.width ∧ height = p.height ∧ p.width % 8 = 0 ∧ p.bytes.length = p.width / 8 * p.height := by
  simp [PackedBitmap.agrees, PackedBitmap.ok_iff, and_assoc]

theorem headerInRange_iff (width height : Nat) : headerInRange width height = true ↔ width / 8 ≤ 65535 ∧ height ≤ 65535 := by
  simp [headerInRange]

section
variable {modes : ModeMap} {mode : BitmapMode} {m : Byte} {width height : Nat} {p : PackedBitmap}

/-- Check 1 of R190. -/
theorem bitmapFrame_unnamed (hm : mode.ordinal? modes = none) :
    bitmapFrame modes mode width height p = .error (.refuse .operand) := by
  simp [bitmapFrame, hm]

/-- Check 2 of R190. -/
theorem bitmapFrame_mismatch (hm : mode.ordinal? modes = some m) (h : p.agrees width height = false) :
    bitmapFrame modes mode width height p = .error (.refuse .bitmapMismatch) := by
  simp [bitmapFrame, hm, h]

/-- Check 3 of R190. -/
theorem bitmapFrame_range (hm : mode.ordinal? modes = some m) (h : p.agrees width height = true)
    (hrange : headerInRange width height = false) :
    bitmapFrame modes mode width height p = .error (.refuse .headerRange) := by
  simp [bitmapFrame, hm, h, hrange]

theorem bitmapFrame_ok (hm : mode.ordinal? modes = some m) (h : p.agrees width height = true)
    (hrange : headerInRange width height = true) :
    bitmapFrame modes mode width height p
      = .ok ([0x1d#8, 0x76#8, 0x30#8, m] ++ le16 (width / 8) ++ le16 height ++ p.bytes) := by
  simp [bitmapFrame, hm, h, hrange]

/-- Operands that agree are not refused by check 2. -/
theorem bitmapFrame_ne_mismatch (h : p.agrees width height = true) :
    bitmapFrame modes mode width height p ≠ .error (.refuse .bitmapMismatch) := by
  cases hm : mode.ordinal? modes with
  | none => simp [bitmapFrame_unnamed hm]
  | some m =>
    cases hrange : headerInRange width height with
    | false => simp [bitmapFrame_range hm h hrange]
    | true => simp [bitmapFrame_ok hm h hrange]

end

/-- The operands of P are those of the bitmap it holds (R92). -/
theorem bitmapOperation_fromP {s : State} {p : PackedBitmap} (hP : s.P = some p) (mode : BitmapMode) :
    bitmapOperation s mode .fromP = bitmapOperation s mode (.given p.width p.height p) := by
  simp [bitmapOperation, hP]

theorem exec_bitmapBlock (mode : BitmapMode) (operands : BitmapOperands) (s : State) :
    exec (.bitmapBlock mode operands) s = s.deliver (bitmapOperation s mode operands) := rfl

theorem exec_bitmapBlock_given (mode : BitmapMode) (width height : Nat) (p : PackedBitmap) (s : State) :
    exec (.bitmapBlock mode (.given width height p)) s
      = s.deliver (bitmapFrame s.params.bitmapModeExtra mode width height p) := rfl

/-- An unnamed mode is refused first (R94, R190). -/
theorem exec_bitmapBlock_unnamed {mode : BitmapMode} {s : State} (hm : mode.ordinal? s.params.bitmapModeExtra = none)
    (width height : Nat) (p : PackedBitmap) :
    exec (.bitmapBlock mode (.given width height p)) s = .refused .operand := by
  rw [exec_bitmapBlock_given, bitmapFrame_unnamed hm, deliver_refuse]

/-- The little-endian header field of a 16-bit number, its high byte needing no reduction (R9). -/
theorem le16_eq {v : Nat} (h : v ≤ 65535) : le16 v = [BitVec.ofNat 8 (v % 256), BitVec.ofNat 8 (v / 256)] := by
  have hhi : v / 256 % 256 = v / 256 := Nat.mod_eq_of_lt (by omega)
  rw [le16, lo8, hi8, hhi]

end Sys2Proof.Machine

namespace Sys2Proof.Proofs

open Sys2Proof.Machine Sys2Proof.Safety

/-- Settles O24: RESET delivers its constant frame. -/
theorem resetYieldsItsFrame : Obligations.ResetYieldsItsFrame := fun _ => yieldsFrame_of_deliver rfl

/-- Settles O25: the three ordinals have their frames, and no other number is an ordinal. -/
theorem alignmentYieldsItsOrdinal : Obligations.AlignmentYieldsItsOrdinal := by
  intro s
  refine ⟨yieldsFrame_of_deliver rfl, yieldsFrame_of_deliver rfl, yieldsFrame_of_deliver rfl,
    fun n hn => exec_setAlignment_refused (fun a ha => ?_) s⟩
  have hle : a.ordinal.toNat ≤ 2 := by cases a <;> decide
  omega

/-- Settles O26: the flag byte of the sixteen styles, and the frame it gives. -/
theorem styleYieldsItsFlagByte : Obligations.StyleYieldsItsFlagByte := by
  intro b u dw dh s
  obtain ⟨hbits, hzero⟩ := styleFlags_bits b u dw dh
  exact ⟨styleFlags b u dw dh, hbits, hzero, yieldsFrame_of_deliver rfl⟩

/-- Settles O27: a byte is its own operand, and a larger count is none. -/
theorem feedsYieldTheirCount : Obligations.FeedsYieldTheirCount :=
  fun _ s => ⟨fun hn => ⟨yieldsFrame_of_deliver (congrArg s.deliver (feedFrame_byte 0x64#8 hn)),
      yieldsFrame_of_deliver (congrArg s.deliver (feedFrame_byte 0x4a#8 hn))⟩,
    fun hn => ⟨exec_feedLines_refused hn s, exec_feedDots_refused hn s⟩⟩

/-- Settles O28: with the checks of R190 passed, both operand forms deliver the same frame. -/
theorem bitmapYieldsHeaderAndPayload : Obligations.BitmapYieldsHeaderAndPayload := by
  intro mode m packed s hm hw hlen hcb hheight frame
  have hframe : bitmapOperation s mode (.given packed.width packed.height packed) = .ok frame := by
    have hok := bitmapFrame_ok hm ((PackedBitmap.agrees_iff packed _ _).2 ⟨rfl, rfl, hw, hlen⟩)
      ((headerInRange_iff _ _).2 ⟨hcb, hheight⟩)
    rw [le16_eq hcb, le16_eq hheight] at hok
    exact hok
  refine ⟨?_, yieldsFrame_of_deliver (congrArg s.deliver hframe), fun hP => yieldsFrame_of_deliver ?_⟩
  · simp only [frame, List.length_append, List.length_cons, List.length_nil, hlen]
  · rw [exec_bitmapBlock, bitmapOperation_fromP hP, hframe]

/-- Settles O29: each check's refusal, the earlier checks passed; P in its canonical form agrees with itself. -/
theorem bitmapChecksInOrder : Obligations.BitmapChecksInOrder := by
  intro mode width height packed s
  have hfromP (hP : s.P = some packed) (mode : BitmapMode) : exec (.bitmapBlock mode .fromP) s
      = exec (.bitmapBlock mode (.given packed.width packed.height packed)) s :=
    congrArg s.deliver (bitmapOperation_fromP hP mode)
  have hagrees (hok : packed.ok = true) : packed.agrees packed.width packed.height = true :=
    (PackedBitmap.agrees_iff packed _ _).2 ⟨rfl, rfl, (PackedBitmap.ok_iff packed).1 hok⟩
  refine ⟨fun hm => exec_bitmapBlock_unnamed hm width height packed, fun m hm hno => ?_, fun m hm hyes hno => ?_,
    fun hmem hP hrefused => ?_, fun hP => hfromP hP mode, fun hok hheight hP => ?_⟩
  · rw [← PackedBitmap.agrees_iff, Bool.not_eq_true] at hno
    rw [exec_bitmapBlock_given, bitmapFrame_mismatch hm hno, deliver_refuse]
  · rw [← PackedBitmap.agrees_iff] at hyes
    rw [← headerInRange_iff, Bool.not_eq_true] at hno
    rw [exec_bitmapBlock_given, bitmapFrame_range hm hyes hno, deliver_refuse]
  · obtain ⟨-, -, hPok⟩ := (Memory.wf_iff s).1 hmem
    rw [hfromP hP, exec_bitmapBlock_given] at hrefused
    obtain herr | hr := deliver_refused hrefused
    · exact bitmapFrame_ne_mismatch (hagrees (hPok packed hP)) herr
    · cases hr
  · have hrange : headerInRange packed.width packed.height = false := by
      rw [← Bool.not_eq_true, headerInRange_iff]
      omega
    rw [hfromP hP, exec_bitmapBlock_given, bitmapFrame_range rfl (hagrees hok) hrange, deliver_refuse]

/-- Settles O30: WRITE_TEXT delivers its operand. -/
theorem textYieldsItsBytes : Obligations.TextYieldsItsBytes := fun _ _ => yieldsFrame_of_deliver rfl

/-- Settles O31: the call's answer is read by `interpret`, in its three cases of a count and one of a failure. -/
theorem emitReadsTheAnswer : Obligations.EmitReadsTheAnswer := by
  intro f s
  refine ⟨fun hf => by rw [hf]; rfl, fun hf => ⟨emit_accepted hf, fun n ha hn => ?_, fun n ha hn => ?_, fun reason ha => ?_⟩⟩
  · show s.emit f = _
    rw [emit_of_ne hf, ha, interpret_accepted, if_neg hn.ne, if_pos hn]
    rfl
  · show s.emit f = _
    rw [emit_of_ne hf, ha, interpret_accepted, if_neg hn.ne', if_neg hn.asymm]
  · show s.emit f = _
    rw [emit_of_ne hf, ha]
    rfl

end Sys2Proof.Proofs
end

section
/-! The moves of the outside (R36, R260): each where it is admitted, and its refusal elsewhere. -/

namespace Sys2Proof.Machine

/-! ### Block reset -/

/-- Block reset with no call outstanding: the values of R40, and what lies outside the CORE as it was (R260). -/
theorem blockReset_of_no_call {s : State} (h : s.txPending = none) :
    s.blockReset = { State.reset with params := s.params, moves := s.moves
                                      txAnswers := s.txAnswers, txCalls := s.txCalls } := by
  rw [State.blockReset, State.abandonCall_none h]

/-- Block reset of an outstanding call: its answer is used up unread (R260). -/
theorem blockReset_of_call {s : State} {f : List Byte} (h : s.txPending = some f) :
    s.blockReset = { State.reset with params := s.params, moves := s.moves
                                      txAnswers := s.txAnswers.tail, txCalls := s.txCalls + 1 } := by
  rw [State.blockReset, State.abandonCall_some h]
  rfl

/-! ### START -/

theorem start_ready {s : State} {c : Cfg} (hopen : s.phase = .idle ∨ s.phase = .done) (hc : s.cfgIn = some c) :
    s.start = .next { s with cfg := some c, job := s.jobIn, img := s.imgIn, jpc := 0, err := .none, txlog := [],
                             G := none, M := none, P := none, phase := .run } := by
  rw [State.start, if_pos ⟨hopen, by simp [hc]⟩, hc]

theorem start_unconfigured {s : State} (hc : s.cfgIn = none) : s.start = .refused .notReady :=
  if_neg fun hready => by simp [hc] at hready

/-! ### A call not answered yet -/

/-- The call of a frame that is not empty is held, and nothing else changes (R248). -/
theorem holdCall_of_frame {s : State} {f : List Byte} (hnext : s.nextFrame = some f) (hf : f ≠ []) :
    s.holdCall = .next { s with txPending := some f } := by
  obtain ⟨b, f, rfl⟩ := List.exists_cons_of_ne_nil hf
  rw [State.holdCall, hnext]

/-- Without a frame to send there is no call to hold (R215). -/
theorem holdCall_refused {s : State} (h : s.nextFrame = none ∨ s.nextFrame = some []) :
    s.holdCall = .refused .hostMoveNotAdmitted := by
  obtain h | h := h <;> rw [State.holdCall, h]

theorem nextFrame_of_not_run {s : State} (h : s.phase ≠ .run) : s.nextFrame = none := if_neg h

theorem not_open_of_run_or_fault {s : State} (h : s.phase = .run ∨ s.phase = .fault) :
    ¬ (s.phase = .idle ∨ s.phase = .done) := by
  obtain h | h := h <;> simp [h]

end Sys2Proof.Machine

namespace Sys2Proof.Proofs

open Sys2Proof.Machine

/-- Settles O53: the values of `State.reset`, which block reset writes from any state. -/
theorem resetValuesAreTheSpecs : Obligations.ResetValuesAreTheSpecs := by
  refine ⟨rfl, rfl, rfl, rfl, rfl, rfl, rfl, rfl, rfl, rfl, rfl, fun s hreset => ?_, fun s hc hstart => ?_⟩
  · obtain ⟨rest, hmoves⟩ := List.head?_eq_some_iff.1 hreset
    exact ⟨_, step_move hmoves, rfl, rfl, rfl, rfl, rfl, rfl, rfl, rfl, rfl, rfl, rfl⟩
  · obtain ⟨rest, hmoves⟩ := List.head?_eq_some_iff.1 hstart
    exact (step_move hmoves).trans (start_unconfigured hc)

/-- Settles O54: one equation of `hostStep` for each move, in the phases it is admitted in and in the others. -/
theorem hostMovesOfTheTable : Obligations.HostMovesOfTheTable := by
  intro s rest
  refine ⟨fun hmoves => ⟨fun hnone => ?_, fun f hcall => ?_⟩, fun hmoves => step_move hmoves, fun hmoves => step_move hmoves,
    fun hopen => ⟨fun c hmoves => ?_, fun r hmoves => ?_, fun ops job hmoves hjob => ?_, fun c hmoves hc => ?_,
      fun i hmoves => ?_⟩,
    fun hclosed => ?_, fun hmoves => ⟨fun op f hp hop hframe hf => ?_, fun hno => ?_, fun hp => ?_⟩⟩
  · rw [step_move hmoves, hostStep, blockReset_of_no_call (s := { s with moves := rest }) hnone]
  · rw [step_move hmoves, hostStep, blockReset_of_call (s := { s with moves := rest }) hcall]
  · rw [step_move hmoves, hostStep, whenOpen_of_open (s := { s with moves := rest }) hopen]
  · rw [step_move hmoves, hostStep, whenOpen_of_open (s := { s with moves := rest }) hopen]
  · rw [step_move hmoves, hostStep, whenOpen_of_open (s := { s with moves := rest }) hopen]
    exact writeJob_some (s := { s with moves := rest }) hjob
  · rw [step_move hmoves]
    exact start_ready (s := { s with moves := rest }) hopen hc
  · rw [step_move hmoves, hostStep, whenOpen_of_open (s := { s with moves := rest }) hopen]
  · have hshut : ¬ (s.phase = .idle ∨ s.phase = .done) := not_open_of_run_or_fault hclosed
    have hrefused := whenOpen_of_not_open (s := { s with moves := rest }) hshut
    exact ⟨fun c hmoves => (step_move hmoves).trans (hrefused _), fun r hmoves => (step_move hmoves).trans (hrefused _),
      fun ops hmoves => (step_move hmoves).trans (hrefused _), fun i hmoves => (step_move hmoves).trans (hrefused _),
      fun hmoves => (step_move hmoves).trans (start_not_open (s := { s with moves := rest }) hshut)⟩
  · rw [step_move hmoves]
    exact holdCall_of_frame (s := { s with moves := rest }) ((nextFrame_op hp hop).trans hframe) hf
  · rw [step_move hmoves]
    exact holdCall_refused (s := { s with moves := rest }) hno
  · rw [step_move hmoves]
    exact holdCall_refused (s := { s with moves := rest }) (.inl (nextFrame_of_not_run hp))

end Sys2Proof.Proofs
end

section
/-! A table word placed as the next operation (log entry 9): what decodes is a frame of its operation, which the one-operation job
emits with the transport about to take it whole. -/

namespace Sys2Proof.Machine

open Sys2Proof.Safety (modeMapWf)

/-- `t` is a running job of the one operation `op`, at its beginning, and the transport takes `op`'s frame `f` whole. -/
structure Loaded (t : State) (op : JobOp) (f : List Byte) : Prop where
  moves_eq : t.moves = []
  phase_eq : t.phase = .run
  jpc_eq   : t.jpc = 0
  job_eq   : t.job = [op]
  frame    : frameOf t op.toInstr = some f
  taken    : f ≠ [] → t.txAnswer f = .accepted f.length

theorem loadOp_loaded {s : State} {op : JobOp} {f : List Byte} (h : frameOf s op.toInstr = some f) :
    Loaded (s.loadOp op f) op f where
  moves_eq := rfl
  phase_eq := rfl
  jpc_eq := rfl
  job_eq := rfl
  frame := (frameOf_congr (s := s) rfl rfl op.toInstr).trans h
  taken hf := by simp [State.txAnswer, State.loadOp, hf]

/-- The step of a loaded operation runs it, logs its frame, and moves `jpc` past it (R211, R213). -/
theorem Loaded.step {t : State} {op : JobOp} {f : List Byte} (h : Loaded t op f) :
    ∃ u, exec op.toInstr t = .next u ∧ u.phase = .run ∧ u.txlog = t.txlog ++ sentFrames [f] ∧
      step t = .next { u with jpc := 1 } := by
  obtain ⟨hmoves, hp, hj, hjob, hframe, htaken⟩ := h
  have hexec := exec_frame hp hframe
  have hop : t.job[t.jpc]? = some op := by simp [hj, hjob]
  rw [step_op hmoves hp hop, hexec]
  by_cases hf : f = []
  · subst hf
    refine ⟨t, emit_empty t, hp, by simp [sentFrames], ?_⟩
    rw [emit_empty, advance_next_of_ne (by simp [hp]), hj]
  · have hemit := emit_accepted hf (htaken hf)
    refine ⟨_, hemit, hp, by rw [sentFrames_cons hf]; rfl, ?_⟩
    rw [hemit, advance_next_of_ne (by simp [hp])]
    simp [hj]

/-! ### The operation of a decoded word -/

theorem modeMapWf_nil : modeMapWf [] := by simp [modeMapWf]

/-- A table word that decodes begins with a frame of its operation. -/
theorem decodeTableWord_isFrame {nbits w : Nat} {i : Instr} (h : decodeTableWord nbits w = some i) :
    ∃ f, IsFrame [] i f := by
  unfold decodeTableWord at h
  split at h
  next i' rest hdecode =>
    cases h
    obtain ⟨f, hf, -⟩ := decode_ok modeMapWf_nil hdecode
    exact ⟨f, hf⟩
  next => cases h

/-- The words the CORE sends of an operation: none for the all-default style (R185), else its encoding. -/
theorem sentFrame_eq {i : Instr} {f : List Byte} (h : encode [] i = some f) :
    sentFrame i = if i = .setTextStyle false false false false then [] else f := by
  cases i with
  | setTextStyle b u dw dh =>
    cases h
    revert b u dw dh
    decide
  | _ => simp [sentFrame, h]

/-- The operations with a frame are the job operations, and BITMAP_BLOCK in mode NORMAL with its own bitmap's operands. -/
theorem isFrame_exists_toInstr {i : Instr} {f : List Byte} (h : IsFrame [] i f) :
    (∃ op : JobOp, op.toInstr = i) ∨
      ∃ p : PackedBitmap, i = .bitmapBlock .normal (.given p.width p.height p) := by
  obtain ⟨-, henc, -⟩ := h
  cases i with
  | normalize | luminance | resample | dither | pack | unpack | rasterize | emit => cases henc
  | reset => exact .inl ⟨.reset, rfl⟩
  | setTextStyle b u dw dh => exact .inl ⟨.setTextStyle b u dw dh, rfl⟩
  | writeText text => exact .inl ⟨.writeText text, rfl⟩
  | setAlignment n =>
    obtain ⟨a, ha, -⟩ := Option.map_eq_some_iff.1 henc
    exact .inl ⟨.setAlignment a, congrArg _ (Alignment.ofOrdinal?_eq_some_iff.1 ha)⟩
  | feedLines n =>
    obtain ⟨v, hv, -⟩ := Option.map_eq_some_iff.1 henc
    exact .inl ⟨.feedLines v, congrArg _ (byteOperand?_eq_some_iff.1 hv)⟩
  | feedDots n =>
    obtain ⟨v, hv, -⟩ := Option.map_eq_some_iff.1 henc
    exact .inl ⟨.feedDots v, congrArg _ (byteOperand?_eq_some_iff.1 hv)⟩
  | bitmapBlock mode operands =>
    cases operands with
    | fromP => cases henc
    | given width height p =>
      rw [encode] at henc
      split at henc
      next hchecks =>
        obtain ⟨hagrees, -⟩ := (Bool.and_eq_true _ _).mp hchecks
        obtain ⟨rfl, rfl, -⟩ := (PackedBitmap.agrees_iff p width height).1 hagrees
        cases mode with
        | normal => exact .inr ⟨p, rfl⟩
        | extra name => simp [BitmapMode.ordinal?] at henc
      next => cases henc

/-- A job operation with words sends them whatever the state: none of its operands lies in P. -/
theorem frameOf_of_encode {op : JobOp} {f : List Byte} (s : State) (h : encode [] op.toInstr = some f) :
    frameOf s op.toInstr = some (sentFrame op.toInstr) := by
  have hsent : encode [] op.toInstr = some ((encode [] op.toInstr).getD []) := by rw [h, Option.getD_some]
  cases op with
  | rasterize | bitmapBlock => cases h
  | reset | setTextStyle | writeText => rfl
  | setAlignment a => exact (alignmentFrame_toOption [] _).trans hsent
  | feedLines n => exact (feedLinesFrame_toOption [] _).trans hsent
  | feedDots n => exact (feedDotsFrame_toOption [] _).trans hsent

theorem loadInstr_toInstr {op : JobOp} (h : op.toInstr.wf [] = true) (s : State) :
    s.loadInstr op.toInstr = s.loadOp op (sentFrame op.toInstr) := by
  have htaken := JobOp.ofInstr?_toInstr h
  cases op <;> simp_all [State.loadInstr, JobOp.toInstr]

/-- The operation of a frame is placed as the next one to run (log entry 9). -/
theorem loadInstr_loaded {i : Instr} {f : List Byte} (h : IsFrame [] i f) (s : State) :
    ∃ op, Loaded (s.loadInstr i) op (sentFrame i) ∧ (s.loadInstr i).txlog = s.txlog ∧
      (op.toInstr = i ∨ ∃ p : PackedBitmap, i = .bitmapBlock .normal (.given p.width p.height p) ∧
        op = .bitmapBlock .normal ∧ (s.loadInstr i).P = some p) := by
  obtain ⟨op, rfl⟩ | ⟨p, rfl⟩ := isFrame_exists_toInstr h
  · obtain ⟨hwf, henc, -⟩ := h
    rw [loadInstr_toInstr hwf]
    exact ⟨op, loadOp_loaded (frameOf_of_encode s henc), rfl, .inl rfl⟩
  · obtain ⟨-, henc, -⟩ := h
    refine ⟨.bitmapBlock .normal, loadOp_loaded ?_, rfl, .inr ⟨p, rfl, rfl, rfl⟩⟩
    rw [JobOp.toInstr, frameOf, bitmapOperation_fromP rfl]
    exact (bitmapFrame_toOption _ _ _ _ _).trans (henc.trans (by simp [sentFrame_eq henc]))

theorem withFetchWord_loaded {nbits w : Nat} {i : Instr} (h : decodeTableWord nbits w = some i) (s : State) :
    s.withFetchWord nbits w = s.loadInstr i := by
  rw [State.withFetchWord, State.loadTableWord, h]

end Sys2Proof.Machine

namespace Sys2Proof.Proofs

open Sys2Proof.Machine

/-- Settles O38: a decoded word is a frame of its operation, which `withFetchWord` loads and the step runs. -/
theorem stepRunsTheDecodedWord : Obligations.StepRunsTheDecodedWord := by
  intro s nbits w i h
  obtain ⟨f, hf⟩ := decodeTableWord_isFrame h
  obtain ⟨op, hloaded, -, hop⟩ := loadInstr_loaded hf s
  rw [withFetchWord_loaded h]
  obtain ⟨u, hexec, hrun, -, hstep⟩ := hloaded.step
  exact ⟨op, hloaded.job_eq, hloaded.jpc_eq, hop, u, hexec, hrun, hstep⟩

/-- Settles O39: the loaded operation sends its frame, which but for the all-default style is its encoding (`sentFrame_eq`). -/
theorem runningAWordSendsItsBytes : Obligations.RunningAWordSendsItsBytes := by
  intro s nbits w i f _ h henc
  obtain ⟨f', hf⟩ := decodeTableWord_isFrame h
  obtain ⟨hwf, henc', hne⟩ := hf
  obtain rfl : f' = f := Option.some.inj (henc'.symm.trans henc)
  obtain ⟨op, hloaded, hlog, -⟩ := loadInstr_loaded ⟨hwf, henc', hne⟩ s
  rw [withFetchWord_loaded h]
  obtain ⟨u, -, hrun, hulog, hstep⟩ := hloaded.step
  refine ⟨_, hstep, rfl, hrun, hulog.trans ?_⟩
  rw [hlog, sentFrame_eq henc]
  split
  · simp [sentFrames]
  · rw [sentFrames_cons hne]
    rfl

end Sys2Proof.Proofs
end

section
/-! NORMALIZE, LUMINANCE and RESAMPLE (R110 to R114, R130 to R142): a pixel of an admitted image has a luma, read off its bytes
(`sourceLuma`), so RESAMPLE is a map over the destination pixels (`resample_eq`), and what that map does not read does not matter. -/

namespace Sys2Proof.Machine

open Sys2Proof.Safety (pixelByte pixelLuma tableInRange)

/-! ### One pixel -/

/-- NORMALIZE's refusal (R110). -/
theorem normalize_refused {px : List Byte} {channels : Nat} (h : pixelShapeOk px channels = false) :
    normalize px channels = .error (.refuse .imageShape) := by
  simp [normalize, h]

theorem pixelShapeOk_iff (px : List Byte) (channels : Nat) :
    pixelShapeOk px channels = true ↔ 1 ≤ channels ∧ channels ≤ 4 ∧ px.length = channels := by
  simp [pixelShapeOk, and_assoc]

/-- The luma of a normalized pixel, alpha unread (R110, R112). -/
theorem normalize_ok {px : List Byte} {channels : Nat} (h : pixelShapeOk px channels = true) :
    ∃ r g b, normalize px channels = .ok (r, g, b) ∧ y1000 r.toNat g.toNat b.toNat = pixelLuma px channels 0 := by
  have hshape := h
  obtain ⟨hlo, hhi, hlen⟩ := (pixelShapeOk_iff px channels).1 h
  match px, hlen with
  | [], hlen => simp at hlen; omega
  | [g], hlen =>
    obtain rfl : channels = 1 := hlen.symm
    exact ⟨g, g, g, rfl, y1000_gray _⟩
  | [g, alpha], hlen =>
    obtain rfl : channels = 2 := hlen.symm
    exact ⟨g, g, g, rfl, y1000_gray _⟩
  | [r, g, b], hlen =>
    obtain rfl : channels = 3 := hlen.symm
    exact ⟨r, g, b, rfl, rfl⟩
  | [r, g, b, alpha], hlen =>
    obtain rfl : channels = 4 := hlen.symm
    exact ⟨r, g, b, rfl, rfl⟩
  | _ :: _ :: _ :: _ :: _ :: _, hlen => simp at hlen; omega

theorem luminance_bytes (p : Params) (r g b : Byte) :
    luminance p r.toNat g.toNat b.toNat = .ok (lumPow p (y1000 r.toNat g.toNat b.toNat)) :=
  if_pos ⟨r.isLt, g.isLt, b.isLt⟩

/-- The colour bytes of a pixel: one of a gray pixel, three of a coloured one (R110). -/
def colourBytes (channels : Nat) : Nat := if channels ≤ 2 then 1 else 3

theorem colourBytes_le {channels : Nat} (h : 1 ≤ channels) : colourBytes channels ≤ channels := by
  unfold colourBytes
  split <;> omega

/-- The alpha byte is the last. -/
theorem colourBytes_of_alpha {channels : Nat} (h : channels = 2 ∨ channels = 4) : colourBytes channels = channels - 1 := by
  obtain rfl | rfl := h <;> rfl

/-- The luma reads the colour bytes alone. -/
theorem pixelLuma_congr {a b : List Byte} {channels o o' : Nat} (h : ∀ k < colourBytes channels, a[o + k]? = b[o' + k]?) :
    pixelLuma a channels o = pixelLuma b channels o' := by
  have hbyte (k : Nat) (hk : k < colourBytes channels) : pixelByte a (o + k) = pixelByte b (o' + k) := by
    simp only [pixelByte, List.getD_eq_getElem?_getD, h k hk]
  unfold pixelLuma
  unfold colourBytes at hbyte
  split at hbyte
  next hgray => rw [if_pos hgray, if_pos hgray, ← Nat.add_zero o, ← Nat.add_zero o', hbyte 0 (by decide)]
  next hcolour =>
    have h0 := hbyte 0 (by decide)
    rw [Nat.add_zero, Nat.add_zero] at h0
    rw [if_neg hcolour, if_neg hcolour, h0, hbyte 1 (by decide), hbyte 2 (by decide)]

theorem pixelByte_le (pixels : List Byte) (i : Nat) : pixelByte pixels i ≤ 255 :=
  Nat.le_of_lt_succ (pixels.getD i 0#8).isLt

theorem pixelLuma_le (pixels : List Byte) (channels o : Nat) : pixelLuma pixels channels o ≤ 255000 := by
  have h0 := pixelByte_le pixels o
  have h1 := pixelByte_le pixels (o + 1)
  have h2 := pixelByte_le pixels (o + 2)
  unfold pixelLuma
  split <;> omega

/-! ### The source pixel -/

theorem DecodedImage.shapeOk_iff (i : DecodedImage) :
    i.shapeOk = true ↔ 0 < i.width ∧ 0 < i.height ∧ 1 ≤ i.channels ∧ i.channels ≤ 4 ∧
      i.pixels.length = i.width * i.height * i.channels := by
  simp [DecodedImage.shapeOk, and_assoc]

theorem srcX_lt {w : Nat} (m x : Nat) (hw : 0 < w) : srcX w m x < w :=
  (Nat.min_le_right _ _).trans_lt (Nat.sub_one_lt_of_lt hw)

theorem srcY_lt {h : Nat} (w m y : Nat) (hh : 0 < h) : srcY w h m y < h :=
  (Nat.min_le_right _ _).trans_lt (Nat.sub_one_lt_of_lt hh)

/-- `Y1000` of the source pixel of destination pixel `(x, y)` (R134, R135, R112). -/
def sourceLuma (image : DecodedImage) (m x y : Nat) : Nat :=
  pixelLuma image.pixels image.channels
    ((srcY image.width image.height m y * image.width + srcX image.width m x) * image.channels)

/-- A pixel inside the image has all its bytes (R52). -/
theorem memRead_pixel_length {w h c x y : Nat} {pixels : List Byte} (hx : x < w) (hy : y < h)
    (hlen : pixels.length = w * h * c) : (memRead pixels (pixoff w c x y 0) c).length = c := by
  have hlast : (y * w + x + 1) * c ≤ w * h * c := Nat.mul_le_mul_right c (cellIndex_lt hx hy)
  rw [Nat.add_mul, Nat.one_mul] at hlast
  simp only [memRead, pixoff, List.length_take, List.length_drop, hlen, Nat.add_zero]
  omega

theorem samplePixel_eq {image : DecodedImage} (h : image.shapeOk = true) (p : Params) (m x y : Nat) :
    samplePixel p image m x y = .ok (lumPow p (sourceLuma image m x y)) := by
  obtain ⟨hw, hh, hlo, hhi, hlen⟩ := (DecodedImage.shapeOk_iff image).1 h
  have hpx := memRead_pixel_length (srcX_lt m x hw) (srcY_lt image.width m y hh) hlen
  obtain ⟨r, g, b, hnorm, hluma⟩ := normalize_ok ((pixelShapeOk_iff _ _).2 ⟨hlo, hhi, hpx⟩)
  have hsource : pixelLuma (memRead image.pixels (pixoff image.width image.channels (srcX image.width m x)
      (srcY image.width image.height m y) 0) image.channels) image.channels 0 = sourceLuma image m x y := by
    refine pixelLuma_congr fun k hk => ?_
    have hkc : k < image.channels := hk.trans_le (colourBytes_le hlo)
    simp [memRead, pixoff, hkc]
  rw [samplePixel, hnorm, ← hsource, ← hluma]
  exact luminance_bytes p r g b

/-! ### The whole raster -/

theorem collect_eq_map {α β : Type} {f : α → Except Stop β} {g : α → β} {l : List α} (h : ∀ a ∈ l, f a = .ok (g a)) :
    collect f l = .ok (l.map g) := by
  induction l with
  | nil => rfl
  | cons a rest ih =>
    obtain ⟨ha, hrest⟩ := List.forall_mem_cons.1 h
    simp [collect, ha, ih hrest]

/-- The raster RESAMPLE makes of an admitted image (R138). -/
def resampled (p : Params) (image : DecodedImage) (m : Nat) : GrayscaleRaster where
  width := destWidth image.width m
  height := destHeight image.width image.height m
  samples := (List.range (destWidth image.width m * destHeight image.width image.height m)).map
    (fun i => lumPow p (sourceLuma image m (i % destWidth image.width m) (i / destWidth image.width m)))

/-- RESAMPLE completes on every image of the contract (R130, R138). -/
theorem resample_eq {image : DecodedImage} (h : image.shapeOk = true) (p : Params) (m : Nat) :
    resample p image m = .ok (resampled p image m) := by
  rw [resample, if_pos h]
  simp only [samplePixel_eq h]
  rw [collect_eq_map fun _ _ => rfl]
  rfl

theorem resample_refused {image : DecodedImage} (h : image.shapeOk = false) (p : Params) (m : Nat) :
    resample p image m = .error (.refuse .imageShape) := by
  simp [resample, h]

theorem resampled_length (p : Params) (image : DecodedImage) (m : Nat) :
    (resampled p image m).samples.length = (resampled p image m).width * (resampled p image m).height := by
  simp [resampled]

/-- Row-major order (R54). -/
theorem resampled_getElem? (p : Params) (image : DecodedImage) (m : Nat) {x y : Nat}
    (hx : x < (resampled p image m).width) (hy : y < (resampled p image m).height) :
    (resampled p image m).samples[y * (resampled p image m).width + x]? = some (lumPow p (sourceLuma image m x y)) := by
  have hi := cellIndex_lt hx hy
  simp only [resampled] at hx hi ⊢
  simp [hi, cellIndex_mod y hx, cellIndex_div y hx]

/-- Two images resample alike where the source pixels' lumas are equal. -/
theorem resample_congr {a b : DecodedImage} (ha : a.shapeOk = true) (hb : b.shapeOk = true) (hw : a.width = b.width)
    (hh : a.height = b.height) (p : Params) {m : Nat}
    (h : ∀ x y, x < destWidth a.width m → sourceLuma a m x y = sourceLuma b m x y) :
    resample p a m = resample p b m := by
  rw [resample_eq ha, resample_eq hb]
  simp only [resampled, ← hw, ← hh, Except.ok.injEq, GrayscaleRaster.mk.injEq, true_and]
  exact List.map_congr_left fun i _ => by rw [h _ _ (Nat.mod_lt _ (destWidth_pos _ _))]

/-! ### Intensities -/

theorem isIntensity_iff (v : F64) :
    v.isIntensity = true ↔ v.isFinite = true ∧ F64.zero.le v = true ∧ v.le F64.one = true := by
  simp [F64.isIntensity, and_assoc]

theorem lumPowRef_isIntensity {y : Nat} (h : y ≤ 255000) : (lumPowRef y).isIntensity = true := by
  have hle := lumPowRef_le_one h
  refine (isIntensity_iff _).2 ⟨?_, zero_le_lumPowRef y, hle⟩
  rw [F64.le_iff (lumPowRef_nonneg y) F64.nonneg_one] at hle
  have hone : F64.one.toNat = 1023 * 2 ^ 52 := by decide
  rw [F64.isFinite_iff, (lumPowRef_nonneg y).expField_eq]
  omega

/-- A parameter whose replaced values are intensities has intensities throughout (R118, law (d)). -/
theorem lumPow_isIntensity {p : Params} (hp : tableInRange p) {y : Nat} (h : y ≤ 255000) :
    (lumPow p y).isIntensity = true := by
  rw [lumPow]
  cases hy : p.lumPowTable.lookup y with
  | none => exact lumPowRef_isIntensity h
  | some v =>
    obtain ⟨before, after, htable, -⟩ := List.lookup_eq_some_iff.1 hy
    exact hp (y, v) (by simp [htable])

theorem resampled_isIntensity {p : Params} (hp : tableInRange p) (image : DecodedImage) (m : Nat) :
    ∀ v ∈ (resampled p image m).samples, v.isIntensity = true :=
  List.forall_mem_map.2 fun _ _ => lumPow_isIntensity hp (pixelLuma_le _ _ _)

theorem resampled_ok {p : Params} (hp : tableInRange p) (image : DecodedImage) (m : Nat) :
    (resampled p image m).ok = true :=
  (GrayscaleRaster.ok_iff _).2 ⟨resampled_length p image m, resampled_isIntensity hp image m⟩

/-! ### The columns that are read -/

theorem srcX_mono {w m x x' : Nat} (h : x ≤ x') : srcX w m x ≤ srcX w m x' := by
  refine min_le_min_right _ ?_
  exact Nat.div_le_div_right (Nat.mul_le_mul_right _ h)

/-- From 8 columns on, the width is that of R132 without the clamp up to 8. -/
theorem destWidth_of_le {w m : Nat} (hw : 8 ≤ w) (hm : 8 ≤ m) : destWidth w m = min w m - min w m % 8 := by
  have hmin : 8 ≤ min w m := le_min hw hm
  rw [destWidth_eq m (Nat.lt_of_lt_of_le (by decide) hw), if_neg (by omega)]

end Sys2Proof.Machine

namespace Sys2Proof.Proofs

open Sys2Proof.Machine Sys2Proof.Safety

/-- Settles O1: NORMALIZE by the shape of its operand. -/
theorem normalizeByChannelCount : Obligations.NormalizeByChannelCount := by
  intro s
  refine ⟨fun _ => rfl, fun _ _ => rfl, fun _ _ _ => rfl, fun _ _ _ _ => rfl, fun px channels h => ?_, fun _ _ _ => rfl⟩
  rw [← pixelShapeOk_iff, Bool.not_eq_true] at h
  show s.settle (normalize px channels) _ = _
  rw [normalize_refused h, settle_refuse]

/-- Settles O3: LUMINANCE by the type check of its operands (R94). -/
theorem luminanceReturnsGammaOfLuma : Obligations.LuminanceReturnsGammaOfLuma := by
  intro r g b s
  simp only [← Nat.lt_succ_iff (n := 255)]
  refine ⟨fun h => ?_, fun h => ?_⟩
  · show s.settle (luminance s.params r g b) _ = _
    rw [luminance, if_pos h, settle_ok, y1000]
  · show s.settle (luminance s.params r g b) _ = _
    rw [luminance, if_neg h, settle_refuse]

/-- Settles O6: the reference's endpoints are evaluated, it is monotone, and it is its own distance 0. -/
theorem referenceKeepsLumPowLaws : Obligations.ReferenceKeepsLumPowLaws where
  atZero := lumPowRef_black
  atWhite := lumPowRef_white
  monotone _ _ h _ := lumPowRef_mono h
  range _ h := lumPowRef_isIntensity h
  nearRef _ _ := ⟨Nat.le_add_right _ _, Nat.le_add_right _ _⟩

/-- Settles O12: RESAMPLE is `resampled` on the admitted images. -/
theorem resampleSamplesSelectedPixels : Obligations.ResampleSamplesSelectedPixels := by
  intro image m s
  refine ⟨fun h => ⟨resampled s.params image m, ?_, rfl, rfl, resampled_length _ _ _,
    fun x y hx hy => resampled_getElem? _ _ _ hx hy⟩, fun h => ?_⟩
  · show s.settle (resample s.params image m) _ = _
    rw [resample_eq h, settle_ok]
  · show s.settle (resample s.params image m) _ = _
    rw [resample_refused h, settle_refuse]

/-- Settles O13: the width by its closed form (R132), the samples as values of a `LUM_POW` in range. -/
theorem resampledRasterProperties : Obligations.ResampledRasterProperties := by
  intro p image m g h
  obtain ⟨hok, hwidth, -, hlen, -⟩ := resample_ok h
  obtain ⟨hw, -⟩ := (DecodedImage.shapeOk_iff image).1 hok
  have hmod := destWidth_mod image.width m
  have hpos := destWidth_pos image.width m
  rw [resample_eq hok] at h
  cases h
  refine ⟨⟨hmod, ?_⟩, fun hle hw8 => ?_, fun hlt hm8 => ?_, destWidth_of_lt hw, fun hp v hv => ?_, hlen⟩
  · rw [hwidth]
    omega
  · rw [hwidth, destWidth_of_le hw8 (hw8.trans hle), Nat.min_eq_left hle]
    exact ⟨Nat.sub_le _ _, fun k hk => by omega⟩
  · rw [hwidth, destWidth_of_le (hm8.trans hlt.le) hm8, Nat.min_eq_right hlt.le]
    exact ⟨Nat.sub_le _ _, fun k hk => by omega⟩
  · obtain ⟨-, hzero, hone⟩ := (isIntensity_iff v).1 (resampled_isIntensity hp image m v hv)
    rw [hzero, hone, Bool.and_self]

/-- Settles O14: the columns read are at most the last selected one, `srcX` being monotone; the counts by the closed forms. -/
theorem resampleIgnoresTruncatedColumns : Obligations.ResampleIgnoresTruncatedColumns := by
  refine ⟨fun p a b m ha hb hw hh hc hagree => ?_, fun w m hw8 hle => ?_, fun w m hm8 hlt hm => ?_, by decide, by decide⟩
  · obtain ⟨-, hapos, hlo, -, -⟩ := (DecodedImage.shapeOk_iff a).1 ha
    refine resample_congr ha hb hw hh p fun x y hx => ?_
    rw [sourceLuma, sourceLuma, ← hw, ← hh, ← hc]
    refine pixelLuma_congr fun k hk => ?_
    exact hagree _ _ k (srcX_mono (Nat.le_sub_one_of_lt hx)) (srcY_lt _ _ _ hapos) (hk.trans_le (colourBytes_le hlo))
  · rw [srcX_of_le _ hle, destWidth_of_le hw8 (hw8.trans hle), Nat.min_eq_left hle]
    omega
  · rw [srcX_of_lt _ hlt, destWidth_of_le (hm8.trans hlt.le) hm8, Nat.min_eq_right hlt.le]
    refine (Nat.min_le_left _ _).trans_lt ((Nat.div_lt_iff_lt_mul (by omega)).2 ?_)
    calc (m - m % 8 - 1) * w ≤ (m - 2) * w := Nat.mul_le_mul_right w (by omega)
      _ < (w - 1) * m := by
          obtain ⟨m, rfl⟩ := Nat.exists_eq_add_of_le' hm8
          obtain ⟨w, rfl⟩ := Nat.exists_eq_add_of_lt hlt
          simp only [Nat.add_sub_cancel, show m + 8 - 2 = m + 6 by omega]
          nlinarith

/-- Settles O15: the colour bytes are not the last byte of their pixel. -/
theorem resampleIgnoresAlpha : Obligations.ResampleIgnoresAlpha := by
  intro p a b m ha hb hw hh hc halpha hagree
  refine resample_congr ha hb hw hh p fun x y _ => ?_
  rw [sourceLuma, sourceLuma, ← hw, ← hh, ← hc]
  refine pixelLuma_congr fun k hk => hagree _ ?_
  rw [colourBytes_of_alpha halpha] at hk
  rw [Nat.mul_add_mod_of_lt (by omega)]
  exact hk.ne

end Sys2Proof.Proofs
end

section
/-! DITHER, PACK and UNPACK as transactions (R150 to R173), their operand given or taken from a buffer, and RASTERIZE, which runs
the three stages (R212). -/

namespace Sys2Proof.Machine

open Sys2Proof.Safety (tableInRange)

/-! ### Operands -/

theorem exec_dither_given (g : GrayscaleRaster) (s : State) :
    exec (.dither (.given g)) s = s.settle (dither g) (fun m => { s with M := some m }) := rfl

theorem exec_dither_buffer {g : GrayscaleRaster} {s : State} (hG : s.G = some g) :
    exec (.dither .buffer) s = s.settle (dither g) (fun m => { s with M := some m }) := by
  show s.settle ((grayOperand s .buffer).bind dither) _ = _
  rw [grayOperand, hG]
  rfl

theorem exec_pack_given (m : MonoRaster) (s : State) :
    exec (.pack (.given m)) s = s.settle (pack m) (fun p => { s with P := some p }) := rfl

theorem exec_pack_buffer {m : MonoRaster} {s : State} (hM : s.M = some m) :
    exec (.pack .buffer) s = s.settle (pack m) (fun p => { s with P := some p }) := by
  show s.settle ((monoOperand s .buffer).bind pack) _ = _
  rw [monoOperand, hM]
  rfl

theorem exec_unpack (p : PackedBitmap) (s : State) :
    exec (.unpack p) s = s.settle (unpack p) (fun m => { s with answer := some (.mono m) }) := rfl

theorem exec_rasterize (s : State) :
    exec .rasterize s = s.settle (rasterize s) (fun t => { s with G := some t.1, M := some t.2.1, P := some t.2.2 }) := rfl

theorem exec_dither_unwritten {s : State} (h : s.G = none) : exec (.dither .buffer) s = .refused .unwritten := by
  show s.settle ((grayOperand s .buffer).bind dither) _ = _
  rw [grayOperand, h]
  rfl

theorem exec_pack_unwritten {s : State} (h : s.M = none) : exec (.pack .buffer) s = .refused .unwritten := by
  show s.settle ((monoOperand s .buffer).bind pack) _ = _
  rw [monoOperand, h]
  rfl

theorem exec_bitmapBlock_unwritten {s : State} (h : s.P = none) (mode : BitmapMode) :
    exec (.bitmapBlock mode .fromP) s = .refused .unwritten := by
  rw [exec_bitmapBlock, bitmapOperation, h]
  rfl

theorem exec_rasterize_unwritten {s : State} (h : s.img = none) : exec .rasterize s = .refused .unwritten := by
  rw [exec_rasterize, rasterize, h]
  rfl

/-! ### DITHER -/

theorem dither_of_ok {g : GrayscaleRaster} (h : g.ok = true) :
    dither g = .ok ⟨g.width, g.height, (ditherScan g (g.width * g.height)).bits⟩ := if_pos h

theorem dither_of_not_ok {g : GrayscaleRaster} (h : g.ok = false) : dither g = .error (.refuse .raster) := by
  simp [dither, h]

/-- Above 0.5 is white, bit 0; a tie is black (R152, R156). -/
theorem inkBit_eq (v : F64) : inkBit v = if v.gt F64.half then 0 else 1 := by
  have hwhite : F64.one.eqv F64.zero = false := by decide +kernel
  unfold inkBit quantize
  split
  · rw [hwhite]
    rfl
  · rfl

/-- The intensity the scan reads at index `i` (R152). -/
def scanned (g : GrayscaleRaster) (i : Nat) : F64 := (ditherScan g i).work.getD i F64.zero

/-- The bits of the scan are those of the intensities it has read, in order (R156). -/
theorem ditherScan_bits_eq (g : GrayscaleRaster) (n : Nat) :
    (ditherScan g n).bits = (List.range n).map (fun i => inkBit (scanned g i)) := by
  induction n with
  | zero => rfl
  | succ n ih =>
    rw [ditherScan_succ, List.range_succ, List.map_append, ← ih]
    rfl

/-! ### PACK and UNPACK -/

theorem pack_of_not_ok {m : MonoRaster} (h : m.ok = false) : pack m = .error (.refuse .raster) := by
  simp [pack, h]

theorem unpack_of_not_ok {p : PackedBitmap} (h : p.ok = false) : unpack p = .error (.refuse .raster) := by
  simp [unpack, h]

/-- Pixel `8j + k` of row `y` is pixel `k` of the byte at `y·(w/8) + j` (R55, R171). -/
theorem pixelIndex_eq {w : Nat} (hw : w % 8 = 0) (y j k : Nat) : y * w + 8 * j + k = 8 * (y * (w / 8) + j) + k := by
  obtain ⟨b, rfl⟩ := Nat.dvd_of_mod_eq_zero hw
  rw [Nat.mul_div_cancel_left b (by decide)]
  ring

/-! ### RASTERIZE -/

/-- The image path completes on every admitted image (R212): RESAMPLE's samples are intensities, and its width a multiple of 8. -/
theorem rasterizeImage_of_ok {p : Params} {image : DecodedImage} (h : image.shapeOk = true) (hp : tableInRange p) (m : Nat) :
    ∃ g mono bitmap, resample p image m = .ok g ∧ dither g = .ok mono ∧ pack mono = .ok bitmap ∧
      rasterizeImage p image m = .ok (g, mono, bitmap) := by
  have hg := resample_eq h p m
  have hmono := dither_of_ok (resampled_ok hp image m)
  obtain ⟨-, hmonoOk, -⟩ := dither_ok hmono
  have hbitmap := pack_eq hmonoOk (destWidth_mod image.width m)
  exact ⟨_, _, _, hg, hmono, hbitmap, by simp only [rasterizeImage, hg, hmono, hbitmap]⟩

theorem rasterizeImage_refused {image : DecodedImage} (h : image.shapeOk = false) (p : Params) (m : Nat) :
    rasterizeImage p image m = .error (.refuse .imageShape) := by
  rw [rasterizeImage, resample_refused h]

theorem rasterize_image {s : State} {cfg : Cfg} {image : DecodedImage} (hcfg : s.cfg = some cfg)
    (himg : s.img = some (.ok image)) : rasterize s = rasterizeImage s.params image cfg.maxWidth := by
  rw [rasterize, hcfg, himg]

end Sys2Proof.Machine

namespace Sys2Proof.Proofs

open Sys2Proof.Machine

/-- Settles O16: DITHER from both sources is the scan, whose bits are those of the intensities it reads (`ditherScan_bits_eq`). -/
theorem ditherQuantizesEachPixel : Obligations.DitherQuantizesEachPixel := by
  intro raster s
  refine ⟨rfl, fun h => ?_, fun h => ?_⟩
  · have hd := dither_of_ok h
    refine ⟨_, by rw [exec_dither_given, hd, settle_ok], fun hG => by rw [exec_dither_buffer hG, hd, settle_ok], rfl, rfl,
      (ditherScan_bits raster _).1, fun i hi => ?_⟩
    rw [ditherScan_bits_eq, List.getElem?_map, List.getElem?_range hi, Option.map_some, inkBit_eq]
    rfl
  · have hd := dither_of_not_ok h
    exact ⟨by rw [exec_dither_given, hd, settle_refuse], fun hG => by rw [exec_dither_buffer hG, hd, settle_refuse]⟩

/-- Settles O20: byte `o` packs the eight pixels from `8·o` on, which is where R55 puts them. -/
theorem packPlacesLeftmostPixelInBit7 : Obligations.PackPlacesLeftmostPixelInBit7 := by
  intro m s hok hw
  have hpack := pack_eq hok hw
  obtain ⟨-, hbits⟩ := (MonoRaster.ok_iff m).1 hok
  refine ⟨_, by rw [exec_pack_given, hpack, settle_ok], fun hM => by rw [exec_pack_buffer hM, hpack, settle_ok], rfl, rfl,
    by simp, fun y j k hy hj hk => ?_⟩
  rw [pixelIndex_eq hw, ← packByte_getLsbD hbits _ hk]
  simp [List.getD_eq_getElem?_getD, cellIndex_lt hj hy]

/-- Settles O21: PACK checks the raster, then the width; the image path has a width that passes. -/
theorem packRaisesInvalidDimension : Obligations.PackRaisesInvalidDimension := by
  refine ⟨fun m s hok => ⟨fun hw => ?_, fun width => ⟨fun h => ?_, ?_⟩⟩, fun m s hok => ?_,
    fun p image maxWidth width => rasterizeImage_no_raise p image maxWidth _⟩
  · have hpack := pack_bad_width hok hw
    exact ⟨by rw [exec_pack_given, hpack, settle_raise]; rfl, fun hM => by rw [exec_pack_buffer hM, hpack, settle_raise]; rfl⟩
  · obtain ⟨-, hw, heq⟩ := pack_raise h
    exact ⟨hw, ErrRec.invalidDimension.inj heq⟩
  · rintro ⟨hw, rfl⟩
    exact pack_bad_width hok hw
  · have hpack := pack_of_not_ok hok
    exact ⟨by rw [exec_pack_given, hpack, settle_refuse], fun hM => by rw [exec_pack_buffer hM, hpack, settle_refuse]⟩

/-- Settles O22: pixel `i` is pixel `i mod 8` of byte `i div 8`, which is where R173 reads it. -/
theorem unpackReadsBit7First : Obligations.UnpackReadsBit7First := by
  refine ⟨fun p s => ⟨fun hok => ?_, fun hno => ?_⟩, fun op p => ?_⟩
  · have hw := hok.1
    rw [← PackedBitmap.ok_iff] at hok
    refine ⟨_, by rw [exec_unpack, unpack_eq hok, settle_ok], rfl, rfl, by simp, fun y j k hy hj hk => ?_⟩
    have hbyte : (8 * (y * (p.width / 8) + j) + k) / 8 = y * (p.width / 8) + j := by omega
    have hbit : (8 * (y * (p.width / 8) + j) + k) % 8 = k := by omega
    have hi : 8 * (y * (p.width / 8) + j) + k < p.width * p.height := by
      have hcell := cellIndex_lt hj hy
      have hcount := eight_mul_byteCount hw p.height
      omega
    rw [pixelIndex_eq hw]
    simp [List.getD_eq_getElem?_getD, hi, hbyte, hbit, unpackBit]
  · rw [← PackedBitmap.ok_iff, Bool.not_eq_true] at hno
    rw [exec_unpack, unpack_of_not_ok hno, settle_refuse]
  · cases op <;> exact Instr.noConfusion

/-- Settles O40: RASTERIZE's checks in the order of R238, then the image path. -/
theorem rasterizeRunsTheImagePath : Obligations.RasterizeRunsTheImagePath := by
  refine fun s => ⟨exec_rasterize_unwritten, fun cfg hcfg => ⟨fun reason himg => exec_rasterize_decodeError hcfg himg,
    fun image himg hbad => ?_, fun image himg hok hp => ?_⟩⟩
  · rw [exec_rasterize, rasterize_image hcfg himg, rasterizeImage_refused hbad, settle_refuse]
  · obtain ⟨g, m, p, hg, hm, hpack, hall⟩ := rasterizeImage_of_ok hok hp cfg.maxWidth
    exact ⟨g, m, p, hg, hm, hpack, by rw [exec_rasterize, rasterize_image hcfg himg, hall, settle_ok]⟩

/-- Settles O41: each of the four reads its buffer before any other check. -/
theorem unwrittenBuffersAreRefused : Obligations.UnwrittenBuffersAreRefused :=
  fun _ => ⟨exec_dither_unwritten, exec_pack_unwritten, exec_bitmapBlock_unwritten, exec_rasterize_unwritten⟩

/-- Settles O51: an alignment, a count, a channel value and a mode outside their types. -/
theorem operandsOutsideTheirTypeAreRefused : Obligations.OperandsOutsideTheirTypeAreRefused := by
  refine fun s => ⟨fun n hn => exec_setAlignment_refused hn s,
    fun n hn => ⟨exec_feedLines_refused hn s, exec_feedDots_refused hn s⟩, fun r g b h => ?_, fun name w h p hname => ?_⟩
  · exact (luminanceReturnsGammaOfLuma r g b s).2 (by omega)
  · refine exec_bitmapBlock_unnamed ?_ w h p
    rw [BitmapMode.ordinal?, List.lookup_eq_none_iff]
    exact fun e he => bne_iff_ne.2 (hname e he).symm

end Sys2Proof.Proofs
end

section
/-! The one rounding of R10 is to the nearest binary64 value, ties to the even significand: at one place (`roundQuot_nearest`), then
among all finite values, those of a lower binade being farther; and sums, differences and products are rounded so. -/

namespace Sys2Proof

/-! ### Nearest at one place -/

section
variable {D r : Int} (hr0 : 0 ≤ r) (hrD : r < D)
include hr0 hrD

/-- Multiples of `D` other than the two around `r` are at least one `D` farther from it. -/
theorem le_abs_mul_sub {j : Int} (hj : j < 0 ∨ 1 < j) : D + min r (D - r) ≤ |j * D - r| := by
  obtain hj | hj := hj
  · have hmul : j * D ≤ -1 * D := Int.mul_le_mul_of_nonneg_right (by omega) (by omega)
    have habs := neg_le_abs (j * D - r)
    omega
  · have hmul : 2 * D ≤ j * D := Int.mul_le_mul_of_nonneg_right (by omega) (by omega)
    have habs := le_abs_self (j * D - r)
    omega

/-- In the lower half of `0..D`, 0 is the nearest multiple of `D`, and the only one but at the middle. -/
theorem nearest_down (hhalf : 2 * r ≤ D) (j : Int) : r ≤ |j * D - r| ∧ (r = |j * D - r| → j ≠ 0 → 2 * r = D) := by
  obtain rfl | rfl | hj : j = 0 ∨ j = 1 ∨ (j < 0 ∨ 1 < j) := by omega
  · simp [abs_of_nonneg hr0]
  · rw [one_mul, abs_of_nonneg (by omega)]
    omega
  · have hfar := le_abs_mul_sub hr0 hrD hj
    omega

/-- In the upper half of `0..D`, `D` is the nearest multiple of `D`, and the only one but at the middle. -/
theorem nearest_up (hhalf : D ≤ 2 * r) (j : Int) : D - r ≤ |j * D - r| ∧ (D - r = |j * D - r| → j ≠ 1 → 2 * r = D) := by
  obtain rfl | rfl | hj : j = 0 ∨ j = 1 ∨ (j < 0 ∨ 1 < j) := by omega
  · rw [zero_mul, zero_sub, abs_neg, abs_of_nonneg hr0]
    omega
  · rw [one_mul]
    exact ⟨le_abs_self _, fun _ h => absurd rfl h⟩
  · have hfar := le_abs_mul_sub hr0 hrD hj
    omega

end

/-- Of the multiples of `2^d`, the rounded quotient's is nearest, and of two equally near the even one. -/
theorem F64.roundQuot_nearest (d N : Nat) (m : Int) :
    |(F64.roundQuot d N : Int) * 2 ^ d - N| ≤ |m * 2 ^ d - N| ∧
      (|(F64.roundQuot d N : Int) * 2 ^ d - N| = |m * 2 ^ d - N| → m ≠ F64.roundQuot d N →
        F64.roundQuot d N % 2 = 0) := by
  have hcast : (2 : Int) ^ d = ((2 ^ d : Nat) : Int) := by norm_cast
  have hdiv := Nat.div_add_mod N (2 ^ d)
  have hmod : N % 2 ^ d < 2 ^ d := Nat.mod_lt N (by positivity)
  unfold F64.roundQuot
  rw [hcast]
  generalize N / 2 ^ d = q at *
  generalize N % 2 ^ d = r at *
  generalize 2 ^ d = D at *
  subst hdiv
  obtain ⟨j, rfl⟩ : ∃ j : Int, m = q + j := ⟨m - q, by omega⟩
  have hoff (j : Int) : (q + j) * D - (D * q + r : Nat) = j * D - r := by push_cast; ring
  have hr0 : (0 : Int) ≤ r := by omega
  have hrD : (r : Int) < D := by omega
  simp only [Bool.or_eq_true, Bool.and_eq_true, decide_eq_true_eq]
  split
  next hup =>
    obtain ⟨hle, htie⟩ := nearest_up hr0 hrD (by omega) j
    rw [Nat.cast_add, Nat.cast_one, hoff, hoff, one_mul, abs_of_nonneg (by omega)]
    exact ⟨hle, fun heq hne => by have hmid := htie heq (by omega); omega⟩
  next hdown =>
    obtain ⟨hle, htie⟩ := nearest_down hr0 hrD (by omega) j
    have hzero : |(q : Int) * D - (D * q + r : Nat)| = r := by
      have h0 := hoff 0
      rw [add_zero, zero_mul, zero_sub] at h0
      rw [h0, abs_neg, abs_of_nonneg hr0]
    rw [hzero, hoff]
    exact ⟨hle, fun heq hne => by have hmid := htie heq (by omega); omega⟩

/-! ### Nearest among the finite values -/

/-- A finite value is a multiple of the place `2^e`, or lies below the binade in which `2^e` is the last place. -/
theorem F64.dvd_mag_or_lt (c : F64) (e : Nat) : 2 ^ e ∣ c.mag ∨ c.mag < 2 ^ 52 * 2 ^ e := by
  obtain hlow | hhigh := Nat.lt_or_ge e c.expField
  · left
    have hne : c.expField ≠ 0 := by omega
    rw [F64.mag, if_neg hne]
    exact Dvd.dvd.mul_left (Nat.pow_dvd_pow 2 (by omega)) _
  · right
    exact F64.mag_lt_of_expField_lt (e := e + 1) (by omega)

/-- The magnitude of a datum whose bits are a rounded quotient `Q`, `e` places up. -/
theorem F64.mag_of_bits {a : F64} {e Q : Nat} (hbits : a.toNat % 2 ^ 63 = e * 2 ^ 52 + Q)
    (hfin : e * 2 ^ 52 + Q < 2047 * 2 ^ 52) (hhi : Q ≤ 2 ^ 53) (hlo : e = 0 ∨ 2 ^ 52 ≤ Q) : a.mag = Q * 2 ^ e := by
  obtain hsub | hnormal | hcarry : Q < 2 ^ 52 ∨ (2 ^ 52 ≤ Q ∧ Q < 2 ^ 53) ∨ Q = 2 ^ 53 := by omega
  · obtain rfl : e = 0 := by omega
    have hexp : a.expField = 0 := by unfold F64.expField; omega
    have hfrac : a.frac = Q := by unfold F64.frac; omega
    rw [F64.mag, if_pos hexp, hfrac, pow_zero, Nat.mul_one]
  · have hexp : a.expField = e + 1 := by unfold F64.expField; omega
    have hfrac : 2 ^ 52 + a.frac = Q := by unfold F64.frac; omega
    rw [F64.mag, if_neg (by omega), hexp, hfrac, Nat.add_sub_cancel]
  · have hexp : a.expField = e + 2 := by unfold F64.expField; omega
    have hfrac : a.frac = 0 := by unfold F64.frac; omega
    rw [F64.mag, if_neg (by omega), hexp, hfrac, hcarry, Nat.add_zero, show e + 2 - 1 = e + 1 by omega, pow_succ]
    ring

/-- The bits of a rounded magnitude stand for the rounded quotient at its place. -/
theorem F64.mag_of_roundMag {N k : Nat} {a : F64} (hfin : F64.roundMag N k < 2047 * 2 ^ 52)
    (ha : a.toNat % 2 ^ 63 = F64.roundMag N k) :
    a.mag = F64.roundQuot (F64.dropped N k) N * 2 ^ (F64.dropped N k - k) := by
  have hbits : F64.roundMag N k = (F64.dropped N k - k) * 2 ^ 52 + F64.roundQuot (F64.dropped N k) N := by
    rw [F64.roundMag_eq] at hfin ⊢
    exact Nat.min_eq_left (by omega)
  refine F64.mag_of_bits (ha.trans hbits) (hbits ▸ hfin) (F64.roundQuot_dropped_le N k) ?_
  obtain hk | hk := Nat.lt_or_ge k (F64.dropped N k)
  · exact .inr (F64.le_roundQuot_dropped hk)
  · exact .inl (by omega)

/-- Where more than `k` bits are dropped, 53 bits are kept. -/
theorem F64.two_pow_mul_le {N k : Nat} (h : k < F64.dropped N k) : 2 ^ 52 * 2 ^ F64.dropped N k ≤ N := by
  have hlog : N.log2 = 52 + F64.dropped N k := by
    unfold F64.dropped at h ⊢
    omega
  have hne : N ≠ 0 := by
    rintro rfl
    rw [Nat.log2_zero] at hlog
    omega
  rw [← pow_add, ← hlog]
  exact Nat.log2_self_le hne

/-- A rounded magnitude is nearest to what it rounds among the magnitudes of binary64 and their negatives. -/
theorem F64.mag_nearest {N k : Nat} {a c : F64} {C : Int} (hfin : F64.roundMag N k < 2047 * 2 ^ 52)
    (ha : a.toNat % 2 ^ 63 = F64.roundMag N k) (hC : C.natAbs = c.mag) :
    |(a.mag : Int) * 2 ^ k - N| ≤ |C * 2 ^ k - N| ∧
      (|(a.mag : Int) * 2 ^ k - N| = |C * 2 ^ k - N| → C ≠ a.mag → a.toNat % 2 = 0) := by
  have hmag := F64.mag_of_roundMag hfin ha
  have hk : k ≤ F64.dropped N k := Nat.le_max_right _ _
  have hodd : a.toNat % 2 = F64.roundQuot (F64.dropped N k) N % 2 := by
    rw [F64.roundMag_eq] at hfin ha
    omega
  have hlow (h : k < F64.dropped N k) := F64.two_pow_mul_le h
  have hnearest := F64.roundQuot_nearest (F64.dropped N k) N
  rw [hodd, hmag]
  generalize F64.roundQuot (F64.dropped N k) N = Q at *
  obtain ⟨e, he⟩ := Nat.exists_eq_add_of_le' hk
  rw [he] at hlow hnearest ⊢
  simp only [Nat.add_sub_cancel, pow_add, ← mul_assoc] at hlow hnearest ⊢
  push_cast
  obtain hdvd | ⟨hpos, hlt⟩ : 2 ^ e ∣ c.mag ∨ 0 < e ∧ c.mag < 2 ^ 52 * 2 ^ e := by
    obtain rfl | hpos := Nat.eq_zero_or_pos e
    · exact .inl (one_dvd _)
    · exact (F64.dvd_mag_or_lt c e).imp_right (⟨hpos, ·⟩)
  · have hdvdC : (2 : Int) ^ e ∣ C := by
      have := Int.natCast_dvd.2 (hC ▸ hdvd)
      exact_mod_cast this
    obtain ⟨m, rfl⟩ := hdvdC
    rw [mul_comm (2 ^ e) m]
    refine ⟨(hnearest m).1, fun heq hne => (hnearest m).2 heq fun hm => hne ?_⟩
    rw [hm]
  · have hN := hlow (by omega)
    have hNC : C * 2 ^ k < 2 ^ 52 * 2 ^ e * 2 ^ k :=
      mul_lt_mul_of_pos_right (Int.le_natAbs.trans_lt (by rw [hC]; exact_mod_cast hlt)) (by positivity)
    zify at hN
    have hlt : |(Q : Int) * 2 ^ e * 2 ^ k - N| < |C * 2 ^ k - N| := by
      refine (hnearest (2 ^ 52)).1.trans_lt ?_
      rw [abs_of_nonpos (by omega), abs_of_neg (by omega)]
      omega
    exact ⟨hlt.le, fun heq => absurd heq hlt.ne⟩

/-! ### Signed values -/

/-- `r` is the binary64 value nearest to `x · 2^-k`, in units of 2^-1074, ties to the even significand (R10). -/
def F64.IsNearest (r : F64) (k : Nat) (x : Int) : Prop :=
  ∀ c : F64, |r.scaled * 2 ^ k - x| ≤ |c.scaled * 2 ^ k - x| ∧
    (|r.scaled * 2 ^ k - x| = |c.scaled * 2 ^ k - x| → c.scaled ≠ r.scaled → r.toNat % 2 = 0)

theorem F64.neg?_eq_decide (a : F64) : a.neg? = decide (2 ^ 63 ≤ a.toNat) := BitVec.msb_eq_decide a

theorem F64.scaled_natAbs (a : F64) : a.scaled.natAbs = a.mag := by
  unfold F64.scaled
  split <;> simp

theorem F64.neg?_pack (neg : Bool) {m : Nat} (h : m < 2 ^ 63) : (F64.pack neg m).neg? = neg := by
  rw [F64.neg?_eq_decide, F64.pack, BitVec.toNat_ofNat]
  cases neg <;> simp <;> omega

theorem F64.roundMag_lt_two_pow (N k : Nat) : F64.roundMag N k < 2 ^ 63 :=
  (F64.roundMag_le_infinity N k).trans_lt (by decide)

/-- A finite rounded datum did not overflow. -/
theorem F64.roundMag_lt_of_isFinite {neg : Bool} {N k : Nat}
    (h : (F64.pack neg (F64.roundMag N k)).isFinite = true) : F64.roundMag N k < 2047 * 2 ^ 52 := by
  have hle := F64.roundMag_le_infinity N k
  have hbits := F64.toNat_pack_mod neg (F64.roundMag_lt_two_pow N k)
  rw [F64.isFinite_iff] at h
  unfold F64.expField at h
  omega

/-- The one rounding of a signed value. -/
theorem F64.pack_roundMag_isNearest {neg : Bool} {N k : Nat} (h : (F64.pack neg (F64.roundMag N k)).isFinite = true) :
    (F64.pack neg (F64.roundMag N k)).IsNearest k (if neg then -N else N) := by
  intro c
  have hfin := F64.roundMag_lt_of_isFinite h
  have hbits := F64.toNat_pack_mod neg (F64.roundMag_lt_two_pow N k)
  have hneg := F64.neg?_pack neg (F64.roundMag_lt_two_pow N k)
  generalize F64.pack neg (F64.roundMag N k) = r at *
  rw [F64.scaled.eq_def r, hneg]
  cases neg with
  | false => exact F64.mag_nearest hfin hbits (F64.scaled_natAbs c)
  | true =>
    have hflip (a : Int) : |a * 2 ^ k - -N| = |-a * 2 ^ k - N| := by
      rw [← abs_neg]
      congr 1
      ring
    simp only [if_true]
    rw [hflip, hflip, neg_neg]
    obtain ⟨hle, htie⟩ := F64.mag_nearest (c := c) (C := -c.scaled) hfin hbits (by rw [Int.natAbs_neg, F64.scaled_natAbs])
    exact ⟨hle, fun heq hne => htie heq fun hc => hne (by omega)⟩

theorem F64.isNearest_zero {r : F64} (h : r.scaled = 0) (k : Nat) : r.IsNearest k 0 := by
  intro c
  simp only [h, zero_mul, sub_zero, abs_zero]
  refine ⟨abs_nonneg _, fun heq hne => absurd ?_ hne⟩
  simpa using heq.symm

/-! ### Sums, differences and products -/

theorem F64.add_of_isFinite {a b : F64} (ha : a.isFinite = true) (hb : b.isFinite = true) :
    a.add b = if a.scaled + b.scaled = 0 then (if a.neg? && b.neg? then F64.pack true 0 else F64.zero)
      else F64.pack (decide (a.scaled + b.scaled < 0)) (F64.roundMag (a.scaled + b.scaled).natAbs 0) := by
  simp [F64.add, ha, hb, F64.not_isNaN_of_isFinite]

theorem F64.add_isNearest {a b : F64} (ha : a.isFinite = true) (hb : b.isFinite = true) (h : (a.add b).isFinite = true) :
    (a.add b).IsNearest 0 (a.scaled + b.scaled) := by
  rw [F64.add_of_isFinite ha hb] at h ⊢
  generalize a.scaled + b.scaled = x at *
  split
  next hx =>
    rw [hx]
    split
    · exact F64.isNearest_zero (by decide) 0
    · exact F64.isNearest_zero (by decide) 0
  next hx =>
    rw [if_neg hx] at h
    have hsigned : (if decide (x < 0) = true then -(x.natAbs : Int) else x.natAbs) = x := by
      simp only [decide_eq_true_eq]
      split <;> omega
    have hnearest := F64.pack_roundMag_isNearest h
    rwa [hsigned] at hnearest

theorem F64.toNat_negate_mod (a : F64) : a.negate.toNat % 2 ^ 63 = a.toNat % 2 ^ 63 := by
  rw [F64.negate, BitVec.toNat_xor, Nat.xor_mod_two_pow]
  exact Nat.xor_zero _

theorem F64.neg?_negate (a : F64) : a.negate.neg? = !a.neg? := by
  have hsign : (0x8000000000000000#64).msb = true := by decide
  rw [F64.neg?, F64.neg?, F64.negate, BitVec.msb_xor, hsign, Bool.xor_true]

theorem F64.scaled_negate (a : F64) : a.negate.scaled = -a.scaled := by
  rw [F64.scaled, F64.scaled, F64.neg?_negate, F64.mag_eq_of_low_eq (F64.toNat_negate_mod a)]
  cases a.neg? <;> simp

theorem F64.isFinite_negate (a : F64) : a.negate.isFinite = a.isFinite := by
  have hexp : a.negate.expField = a.expField := by
    have hlow := F64.toNat_negate_mod a
    unfold F64.expField
    omega
  rw [F64.isFinite, F64.isFinite, hexp]

theorem F64.sub_isNearest {a b : F64} (ha : a.isFinite = true) (hb : b.isFinite = true) (h : (a.sub b).isFinite = true) :
    (a.sub b).IsNearest 0 (a.scaled - b.scaled) := by
  rw [sub_eq_add_neg, ← F64.scaled_negate]
  exact F64.add_isNearest ha (F64.isFinite_negate b ▸ hb) h

theorem F64.mul_isNearest {a b : F64} (ha : a.isFinite = true) (hb : b.isFinite = true) (h : (a.mul b).isFinite = true) :
    (a.mul b).IsNearest 1074 (a.scaled * b.scaled) := by
  rw [F64.mul_of_isFinite ha hb] at h ⊢
  have hsigned : (if (a.neg? != b.neg?) = true then -((a.mag * b.mag : Nat) : Int) else (a.mag * b.mag : Nat))
      = a.scaled * b.scaled := by
    rw [F64.scaled, F64.scaled]
    cases a.neg? <;> cases b.neg? <;> simp
  exact hsigned ▸ F64.pack_roundMag_isNearest h

end Sys2Proof

namespace Sys2Proof.Proofs

/-- Settles O8: the computed sum is the one rounding of the exact sum, and a difference is a sum with the negated datum. -/
theorem sumIsRoundedToNearestEven : Obligations.SumIsRoundedToNearestEven := by
  intro a b c ha hb _
  constructor
  · intro h
    simpa using F64.add_isNearest ha hb h c
  · intro h
    simpa using F64.sub_isNearest ha hb h c

/-- Settles O9: the computed product is the one rounding of the exact product. -/
theorem productIsRoundedToNearestEven : Obligations.ProductIsRoundedToNearestEven :=
  fun _ _ c ha hb _ h => F64.mul_isNearest ha hb h c

end Sys2Proof.Proofs
end

section
/-! The value bounds of the ditherer (R159). Every bound is a number of thirty-seconds that binary64 holds exactly, so rounding,
being to the nearest value, does not pass it; and a cell has received at most 1/32, 5/32, 3/32 and 7/32 when the scan reads it. -/

namespace Sys2Proof

/-! ### Rounding does not pass a value that binary64 holds -/

theorem F64.IsNearest.le {r u : F64} {k : Nat} {x : Int} (h : r.IsNearest k x) (hx : x ≤ u.scaled * 2 ^ k) :
    r.scaled ≤ u.scaled := by
  obtain ⟨hle, -⟩ := h u
  rw [abs_of_nonneg (a := u.scaled * 2 ^ k - x) (by omega)] at hle
  have hmul : r.scaled * 2 ^ k ≤ u.scaled * 2 ^ k := by
    have habs := le_abs_self (r.scaled * 2 ^ k - x)
    omega
  exact le_of_mul_le_mul_right hmul (by positivity)

theorem F64.IsNearest.ge {r u : F64} {k : Nat} {x : Int} (h : r.IsNearest k x) (hx : u.scaled * 2 ^ k ≤ x) :
    u.scaled ≤ r.scaled := by
  obtain ⟨hle, -⟩ := h u
  rw [abs_of_nonpos (a := u.scaled * 2 ^ k - x) (by omega)] at hle
  have hmul : u.scaled * 2 ^ k ≤ r.scaled * 2 ^ k := by
    have habs := neg_abs_le (r.scaled * 2 ^ k - x)
    omega
  exact le_of_mul_le_mul_right hmul (by positivity)

/-- What does not exceed a finite magnitude does not round to infinity. -/
theorem F64.isFinite_pack_roundMag {N k : Nat} {u : F64} (hu : u.isFinite = true) (h : N ≤ u.mag * 2 ^ k) (neg : Bool) :
    (F64.pack neg (F64.roundMag N k)).isFinite = true := by
  have hle : F64.roundMag N k ≤ u.toNat % 2 ^ 63 := (F64.roundMag_mono k h).trans_eq (F64.roundMag_mag k hu)
  have hbits := F64.toNat_pack_mod neg (F64.roundMag_lt_two_pow N k)
  rw [F64.isFinite_iff] at hu ⊢
  unfold F64.expField at hu ⊢
  omega

theorem F64.isFinite_add {a b u : F64} (ha : a.isFinite = true) (hb : b.isFinite = true) (hu : u.isFinite = true)
    (h : (a.scaled + b.scaled).natAbs ≤ u.mag) : (a.add b).isFinite = true := by
  rw [F64.add_of_isFinite ha hb]
  split
  · split <;> decide
  · exact F64.isFinite_pack_roundMag hu (by simpa using h) _

theorem F64.isFinite_mul {a b u : F64} (ha : a.isFinite = true) (hb : b.isFinite = true) (hu : u.isFinite = true)
    (h : a.mag * b.mag ≤ u.mag * 2 ^ 1074) : (a.mul b).isFinite = true := by
  rw [F64.mul_of_isFinite ha hb]
  exact F64.isFinite_pack_roundMag hu h _

/-! ### Thirty-seconds -/

/-- 1/32, in units of 2^-1074. -/
def thirtySecond : Int := 2 ^ 1069

theorem thirtySecond_pos : 0 < thirtySecond := by unfold thirtySecond; positivity

theorem one_scaled : F64.one.scaled = 32 * thirtySecond := by decide +kernel

/-- The multiples of 1/32 up to 48/32 are binary64 values. -/
theorem exists_thirtySeconds {m : Int} (h : |m| ≤ 48) : ∃ u : F64, u.isFinite = true ∧ u.scaled = m * thirtySecond := by
  have hnat : ∀ n < 49, (F64.pack false (F64.roundMag (n * 2 ^ 1069) 0)).isFinite = true ∧
      (F64.pack false (F64.roundMag (n * 2 ^ 1069) 0)).scaled = n * thirtySecond := by decide +kernel
  obtain ⟨n, rfl | rfl⟩ := Int.eq_nat_or_neg m
  · obtain ⟨hfin, hscaled⟩ := hnat n (by rw [Nat.abs_cast] at h; omega)
    exact ⟨_, hfin, hscaled⟩
  · obtain ⟨hfin, hscaled⟩ := hnat n (by rw [abs_neg, Nat.abs_cast] at h; omega)
    exact ⟨_, (F64.isFinite_negate _).trans hfin, by rw [F64.scaled_negate, hscaled, neg_mul]⟩

/-- A finite datum between `lo` and `hi` thirty-seconds. -/
structure Within (v : F64) (lo hi : Int) : Prop where
  finite : v.isFinite = true
  lower  : lo * thirtySecond ≤ v.scaled
  upper  : v.scaled ≤ hi * thirtySecond

theorem Within.widen {v : F64} {lo hi lo' hi' : Int} (h : Within v lo hi) (hlo : lo' ≤ lo) (hhi : hi ≤ hi') :
    Within v lo' hi' where
  finite := h.finite
  lower := (mul_le_mul_of_nonneg_right hlo thirtySecond_pos.le).trans h.lower
  upper := h.upper.trans (mul_le_mul_of_nonneg_right hhi thirtySecond_pos.le)

theorem Within.negate {v : F64} {lo hi : Int} (h : Within v lo hi) : Within v.negate (-hi) (-lo) where
  finite := (F64.isFinite_negate v).trans h.finite
  lower := by rw [F64.scaled_negate, neg_mul]; exact neg_le_neg h.upper
  upper := by rw [F64.scaled_negate, neg_mul]; exact neg_le_neg h.lower

/-- A value between two multiples of 1/32 has a magnitude of at most 48/32. -/
theorem natAbs_le_of_thirtySeconds {u : F64} {x lo hi : Int} (hu : u.scaled = 48 * thirtySecond)
    (hlo : -48 ≤ lo) (hhi : hi ≤ 48) (hlower : lo * thirtySecond ≤ x) (hupper : x ≤ hi * thirtySecond) :
    x.natAbs ≤ u.mag := by
  have hpos := thirtySecond_pos
  have hlow : -48 * thirtySecond ≤ lo * thirtySecond := mul_le_mul_of_nonneg_right hlo hpos.le
  have hhigh : hi * thirtySecond ≤ 48 * thirtySecond := mul_le_mul_of_nonneg_right hhi hpos.le
  rw [← F64.scaled_natAbs, hu]
  omega

/-- A sum stays between the sums of the bounds. -/
theorem Within.add {a b : F64} {lo hi lo' hi' : Int} (ha : Within a lo hi) (hb : Within b lo' hi')
    (hlo : |lo + lo'| ≤ 48) (hhi : |hi + hi'| ≤ 48) : Within (a.add b) (lo + lo') (hi + hi') := by
  have hlower : (lo + lo') * thirtySecond ≤ a.scaled + b.scaled := by
    rw [add_mul]
    exact add_le_add ha.lower hb.lower
  have hupper : a.scaled + b.scaled ≤ (hi + hi') * thirtySecond := by
    rw [add_mul]
    exact add_le_add ha.upper hb.upper
  obtain ⟨u, hu, hus⟩ := exists_thirtySeconds (m := 48) (by decide)
  obtain ⟨l, -, hls⟩ := exists_thirtySeconds hlo
  obtain ⟨t, -, hts⟩ := exists_thirtySeconds hhi
  have hfin : (a.add b).isFinite = true := F64.isFinite_add ha.finite hb.finite hu
    (natAbs_le_of_thirtySeconds hus (abs_le.1 hlo).1 (abs_le.1 hhi).2 hlower hupper)
  have hnearest := F64.add_isNearest ha.finite hb.finite hfin
  refine ⟨hfin, ?_, ?_⟩
  · rw [← hls] at hlower ⊢
    exact hnearest.ge (by simpa using hlower)
  · rw [← hts] at hupper ⊢
    exact hnearest.le (by simpa using hupper)

theorem two_pow_1074 : (2 : Int) ^ 1074 = 32 * thirtySecond := by decide +kernel

/-- A share of an error of at most 1/2 is at most that share of 1/2. -/
theorem Within.share {e k : F64} {j : Int} (he : Within e (-16) 16) (hk : k.isFinite = true)
    (hks : k.scaled = 2 * j * thirtySecond) (hj : 0 ≤ j) (hj7 : j ≤ 48) : Within (e.mul k) (-j) j := by
  have hpos := thirtySecond_pos
  have hk0 : 0 ≤ k.scaled := hks ▸ mul_nonneg (mul_nonneg (by decide) hj) hpos.le
  have hprod : |e.scaled * k.scaled| ≤ j * thirtySecond * 2 ^ 1074 :=
    calc |e.scaled * k.scaled| = |e.scaled| * k.scaled := by rw [abs_mul, abs_of_nonneg hk0]
      _ ≤ 16 * thirtySecond * k.scaled :=
          mul_le_mul_of_nonneg_right (abs_le.2 ⟨by simpa using he.lower, he.upper⟩) hk0
      _ = j * thirtySecond * 2 ^ 1074 := by rw [hks, two_pow_1074]; ring
  obtain ⟨u, hu, hus⟩ := exists_thirtySeconds (m := j) (abs_le.2 ⟨by omega, hj7⟩)
  have hfin : (e.mul k).isFinite = true := by
    refine F64.isFinite_mul he.finite hk hu ?_
    have hu0 : (u.mag : Int) = j * thirtySecond := by
      rw [← F64.scaled_natAbs, hus, Int.natAbs_of_nonneg (mul_nonneg hj hpos.le)]
    rw [← F64.scaled_natAbs e, ← F64.scaled_natAbs k, ← Int.natAbs_mul]
    zify
    rwa [hu0]
  have hnearest := F64.mul_isNearest he.finite hk hfin
  obtain ⟨hlower, hupper⟩ := abs_le.1 hprod
  refine ⟨hfin, ?_, ?_⟩
  · rw [neg_mul, ← hus, ← F64.scaled_negate]
    exact hnearest.ge (by rwa [F64.scaled_negate, hus, neg_mul])
  · rw [← hus]
    exact hnearest.le (by rwa [hus])

end Sys2Proof

namespace Sys2Proof.Machine

/-! ### Errors -/

/-- The error of a value in [-0.5, 1.5] lies in [-0.5, 0.5] (R153, R159). -/
theorem within_error {v : F64} (h : Within v (-16) 48) : Within (v.sub (quantize v)) (-16) 16 := by
  have hhalf : F64.half.scaled = 16 * thirtySecond := by decide +kernel
  have hgt : v.gt F64.half = true ↔ 16 * thirtySecond < v.scaled := by
    have hnan : F64.half.isNaN = false := by decide +kernel
    simp [F64.gt, F64.not_isNaN_of_isFinite h.finite, hnan, hhalf]
  unfold quantize
  split
  next hwhite =>
    have hv : Within v 16 48 := ⟨h.finite, (hgt.1 hwhite).le, h.upper⟩
    have hone : Within F64.one 32 32 := ⟨by decide +kernel, one_scaled.ge, one_scaled.le⟩
    exact hv.add hone.negate (by decide) (by decide)
  next hblack =>
    have hv : Within v (-16) 16 := ⟨h.finite, h.lower, not_lt.1 (fun hlt => hblack (hgt.2 hlt))⟩
    have hzero : Within F64.zero 0 0 := ⟨by decide +kernel, by decide +kernel, by decide +kernel⟩
    exact hv.add hzero.negate (by decide) (by decide)

/-! ### What a cell has received -/

/-- The thirty-seconds of an error that cell `pos` of a raster of width `w` can have received when the scan has done `n` pixels:
its neighbours above left, above, above right and left come before it in that order (R151, R154). -/
def received (w n pos : Nat) : Int :=
  (if pos < n + w + 1 then 1 else 0) + (if pos < n + w then 5 else 0) + (if pos + 1 < n + w then 3 else 0)
    + (if pos < n + 1 then 7 else 0)

theorem received_nonneg (w n pos : Nat) : 0 ≤ received w n pos := by
  unfold received
  split_ifs <;> omega

theorem received_le (w n pos : Nat) : received w n pos ≤ 16 := by
  unfold received
  split_ifs <;> omega

theorem received_mono (w n pos : Nat) : received w n pos ≤ received w (n + 1) pos := by
  unfold received
  split_ifs <;> omega

/-- What the pixel at index `n` gives to cell `pos`. -/
theorem received_add_share {w n pos : Nat} {j : Int}
    (h : (j = 7 ∧ pos = n + 1) ∨ (j = 3 ∧ pos + 1 = n + w) ∨ (j = 5 ∧ pos = n + w) ∨ (j = 1 ∧ pos = n + w + 1)) :
    received w n pos + j ≤ received w (n + 1) pos := by
  unfold received
  split_ifs <;> omega

/-! ### The invariant of the scan -/

/-- An intensity that has received up to `j` thirty-seconds of error. -/
def Bounded (v : F64) (j : Int) : Prop := Within v (-j) (32 + j)

theorem Bounded.widen {v : F64} {j j' : Int} (h : Bounded v j) (hj : j ≤ j') : Bounded v j' :=
  Within.widen h (by omega) (by omega)

/-- A cell that gains the share `j/16` of an error of at most 1/2. -/
theorem Bounded.add_share {v err k : F64} {b j b' : Int} (hv : Bounded v b) (herr : Within err (-16) 16)
    (hk : k.isFinite = true) (hks : k.scaled = 2 * j * thirtySecond) (hb : 0 ≤ b) (hj : 0 ≤ j) (hb' : b + j ≤ b')
    (hle : b' ≤ 16) : Bounded (v.add (err.mul k)) b' := by
  have hadd := Within.add hv (herr.share hk hks hj (by omega)) (by rw [abs_le]; omega) (by rw [abs_le]; omega)
  exact hadd.widen (by omega) (by omega)

/-- A sample has received nothing (R150). -/
theorem bounded_of_isIntensity {v : F64} (h : v.isIntensity = true) : Bounded v 0 := by
  obtain ⟨hfin, hzero, hone⟩ := (isIntensity_iff v).1 h
  have hzs : F64.zero.scaled = 0 := by decide +kernel
  simp only [F64.le, Bool.and_eq_true, decide_eq_true_eq, one_scaled, hzs] at hzero hone
  exact ⟨hfin, by simpa using hzero.2, by simpa using hone.2⟩

/-- Every index of a raster is that of a cell (R54). -/
theorem exists_cell {w h pos : Nat} (hpos : pos < w * h) : ∃ x y, x < w ∧ y < h ∧ pos = y * w + x := by
  have hw : 0 < w := Nat.pos_of_mul_pos_right (Nat.zero_lt_of_lt hpos)
  exact ⟨pos % w, pos / w, Nat.mod_lt _ hw, Nat.div_lt_of_lt_mul hpos, (Nat.div_add_mod' pos w).symm⟩

/-- The four shares of a pixel keep every other cell within what it can have received. -/
theorem diffuseAll_bounded {w h n pos : Nat} {work : List F64} {err : F64} (hlen : work.length = w * h) (hn : n < w * h)
    (hpos : pos < w * h) (herr : Within err (-16) 16) (hcell : Bounded (work.getD pos F64.zero) (received w n pos)) :
    Bounded ((diffuseAll w h err (n % w) (n / w) work).getD pos F64.zero) (received w (n + 1) pos) := by
  obtain ⟨x, y, hx, hy, rfl⟩ := exists_cell hn
  obtain ⟨tx, ty, htx, hty, rfl⟩ := exists_cell hpos
  rw [cellIndex_mod y hx, cellIndex_div y hx, diffuseAll_getD err x y hlen htx hty]
  have hrow : (y + 1) * w = y * w + w := by ring
  have hnonneg := received_nonneg w (y * w + x) (ty * w + tx)
  have hle := received_le w (y * w + x + 1) (ty * w + tx)
  have hmono := received_mono w (y * w + x) (ty * w + tx)
  have hgain {k : F64} {j : Int} (hk : k.isFinite = true) (hks : k.scaled = 2 * j * thirtySecond) (hj : 0 ≤ j) hfrom :=
    hcell.add_share herr hk hks hnonneg hj (received_add_share hfrom) hle
  dsimp only
  split
  next hright => exact hgain (j := 7) (by decide) (by decide +kernel) (by decide) (by rw [hright.1, hright.2]; omega)
  split
  next hleft => exact hgain (j := 3) (by decide) (by decide +kernel) (by decide) (by rw [hleft.1, ← hleft.2]; omega)
  split
  next hbelow => exact hgain (j := 5) (by decide) (by decide +kernel) (by decide) (by rw [hbelow.1, hbelow.2]; omega)
  split
  next hlast => exact hgain (j := 1) (by decide) (by decide +kernel) (by decide) (by rw [hlast.1, hlast.2]; omega)
  next => exact hcell.widen hmono

/-- Every cell the scan has still to read lies within what it can have received (R159). -/
theorem ditherScan_bounded {g : GrayscaleRaster} (hok : g.ok = true) (n : Nat) :
    ∀ pos, n ≤ pos → pos < g.width * g.height →
      Bounded ((ditherScan g n).work.getD pos F64.zero) (received g.width n pos) := by
  obtain ⟨hlen, hsamples⟩ := (GrayscaleRaster.ok_iff g).1 hok
  induction n with
  | zero =>
    intro pos _ hpos
    show Bounded (g.samples.getD pos F64.zero) _
    rw [List.getD_eq_getElem _ _ (hlen ▸ hpos)]
    exact (bounded_of_isIntensity (hsamples _ (List.getElem_mem _))).widen (received_nonneg _ _ _)
  | succ n ih =>
    intro pos hn hpos
    have hread := ih n le_rfl (by omega)
    have herr := within_error (Within.widen hread (neg_le_neg (received_le _ _ _)) (by
      have hle := received_le g.width n n
      omega))
    rw [ditherScan_succ, ditherPixel_work]
    exact diffuseAll_bounded ((ditherScan_work_length g n).trans hlen) (by omega) hpos herr (ih pos (by omega) hpos)

/-- What the scan reads lies in [-0.5, 1.5] (R159). -/
theorem within_scanned {g : GrayscaleRaster} (hok : g.ok = true) {i : Nat} (hi : i < g.width * g.height) :
    Within (scanned g i) (-16) 48 :=
  (ditherScan_bounded hok i i le_rfl hi).widen (received_le _ _ _)

end Sys2Proof.Machine

namespace Sys2Proof.Proofs

open Sys2Proof.Machine

/-- Settles O19: the intensity read has received 16/32 of error at most, each error at most 1/2, and the bounds being binary64
values, rounding to nearest does not pass them. -/
theorem ditherValuesStayBounded : Obligations.DitherValuesStayBounded := by
  intro raster i hok hi
  obtain ⟨hfin, hlower, hupper⟩ := within_scanned hok hi
  obtain ⟨hefin, helower, heupper⟩ := within_error (within_scanned hok hi)
  have hhalf : 16 * thirtySecond = 2 ^ 1073 := by decide +kernel
  rw [neg_mul, hhalf] at hlower helower
  rw [hhalf] at heupper
  have hupper' : (48 : Int) * thirtySecond = 3 * 2 ^ 1073 := by decide +kernel
  rw [hupper'] at hupper
  exact ⟨hfin, hefin, hlower, hupper, helower, heupper⟩

end Sys2Proof.Proofs
end

section
/-! The reference `LUM_POW` is the binary64 value nearest to the real power (R113). The root search brackets the real root between
two integers; from 2^-10 on the binary64 values, and so the midpoints of two of them, are coarser than that bracket, so the
sticky bit decides on the right side of each midpoint. -/

namespace Sys2Proof.Machine

/-! ### The real root -/

/-- `(y/255000)^(5/11)`. -/
noncomputable def realPower (y : Nat) : ℝ := ((y : ℝ) / 255000) ^ ((5 : ℝ) / 11)

theorem realPower_nonneg (y : Nat) : 0 ≤ realPower y := Real.rpow_nonneg (by positivity) _

theorem realPower_pow (y : Nat) : realPower y ^ 11 = ((y : ℝ) / 255000) ^ 5 := by
  rw [realPower, ← Real.rpow_natCast, ← Real.rpow_mul (by positivity), ← Real.rpow_natCast]
  norm_num

theorem realPower_le_one {y : Nat} (h : y ≤ 255000) : realPower y ≤ 1 := by
  refine Real.rpow_le_one (by positivity) ?_ (by norm_num)
  rw [div_le_one (by norm_num)]
  exact_mod_cast h

/-- The test of the root search compares with the real root, in units of 2^-63. -/
theorem belowRoot_iff (y a : Nat) : BelowRoot y a ↔ (a : ℝ) ≤ realPower y * 2 ^ 63 := by
  have hpow : (a : ℝ) ≤ realPower y * 2 ^ 63 ↔ (a : ℝ) ^ 11 ≤ (realPower y * 2 ^ 63) ^ 11 :=
    (pow_le_pow_iff_left₀ (by positivity) (mul_nonneg (realPower_nonneg y) (by positivity)) (by decide)).symm
  rw [hpow, mul_pow, realPower_pow, div_pow, div_mul_eq_mul_div, le_div_iff₀ (by positivity), BelowRoot, ← pow_mul,
    ← Nat.cast_le (α := ℝ)]
  rw [Nat.cast_mul, Nat.cast_mul, Nat.cast_pow, Nat.cast_pow, Nat.cast_pow, Nat.cast_pow, Nat.cast_ofNat, Nat.cast_ofNat]

theorem exactRoot_iff (y a : Nat) : ExactRoot y a ↔ (a : ℝ) = realPower y * 2 ^ 63 := by
  have hpow : (a : ℝ) = realPower y * 2 ^ 63 ↔ (a : ℝ) ^ 11 = (realPower y * 2 ^ 63) ^ 11 :=
    (pow_left_inj₀ (by positivity) (mul_nonneg (realPower_nonneg y) (by positivity)) (by decide)).symm
  rw [hpow, mul_pow, realPower_pow, div_pow, div_mul_eq_mul_div, eq_div_iff (by positivity), ExactRoot, ← pow_mul,
    ← Nat.cast_inj (R := ℝ)]
  rw [Nat.cast_mul, Nat.cast_mul, Nat.cast_pow, Nat.cast_pow, Nat.cast_pow, Nat.cast_pow, Nat.cast_ofNat, Nat.cast_ofNat]

/-- The root search finds the integer part of the real root. -/
theorem scaledRoot_bracket {y : Nat} (h : y ≤ 255000) :
    (scaledRoot y : ℝ) ≤ realPower y * 2 ^ 63 ∧ realPower y * 2 ^ 63 < scaledRoot y + 1 := by
  obtain ⟨⟨-, hbelow⟩, hmax⟩ := scaledRoot_isGreatest y
  have hle := (belowRoot_iff y _).1 hbelow
  refine ⟨hle, ?_⟩
  have hsmall : scaledRoot y ≤ 2 ^ 63 := by
    have hone := mul_le_mul_of_nonneg_right (realPower_le_one h) (by positivity : (0 : ℝ) ≤ 2 ^ 63)
    rw [one_mul] at hone
    exact_mod_cast hle.trans hone
  by_contra hge
  have hnext : BelowRoot y (scaledRoot y + 1) := (belowRoot_iff y _).2 (by push_cast; exact not_lt.1 hge)
  have hbad := hmax ⟨by omega, hnext⟩
  omega

/-! ### The sticky bit -/

/-- The smaller of two integers is the nearer to 0 only if the larger exceeds 0 by as much. -/
theorem add_nonneg_of_abs_le_abs {p q : Int} (hlt : p < q) (h : |p| ≤ |q|) : 0 ≤ p + q := by
  by_contra hneg
  rw [abs_of_neg (by omega : p < 0)] at h
  obtain hq := abs_cases q
  omega

/-- Of two multiples of `4u`, the one nearer to the odd multiple `(2r + 1)u` is nearer to every value between `2ru` and
`(2r + 2)u`: their midpoint, a multiple of `2u`, does not lie strictly between. -/
theorem sticky_nearest {a b r : Int} {u X : ℝ} (hu : 0 < u) (hlo : 2 * r * u ≤ X) (hhi : X ≤ (2 * r + 2) * u)
    (h : |4 * a - (2 * r + 1)| ≤ |4 * b - (2 * r + 1)|) : |4 * a * u - X| ≤ |4 * b * u - X| := by
  obtain hlt | rfl | hgt := lt_trichotomy a b
  · have hmid : r + 1 ≤ a + b := by
      have hsum := add_nonneg_of_abs_le_abs (by omega) h
      omega
    have hab : (a : ℝ) * u ≤ b * u := mul_le_mul_of_nonneg_right (by exact_mod_cast hlt.le) hu.le
    have hmidR : ((r : ℝ) + 1) * u ≤ (a + b) * u := mul_le_mul_of_nonneg_right (by exact_mod_cast hmid) hu.le
    exact abs_le_abs (by linarith) (by linarith)
  · exact le_rfl
  · have hmid : a + b ≤ r := by
      rw [← abs_neg (4 * a - _), ← abs_neg (4 * b - _)] at h
      have hsum := add_nonneg_of_abs_le_abs (by omega) h
      omega
    have hab : (b : ℝ) * u ≤ a * u := mul_le_mul_of_nonneg_right (by exact_mod_cast hgt.le) hu.le
    have hmidR : ((a : ℝ) + b) * u ≤ r * u := mul_le_mul_of_nonneg_right (by exact_mod_cast hmid) hu.le
    rw [← abs_neg (4 * a * u - X), ← abs_neg (4 * b * u - X)]
    exact abs_le_abs (by linarith) (by linarith)

/-! ### The coarse values -/

/-- 2^-64, the unit of the sticky root, in units of 2^-1074. -/
def rootUnit : Int := 2 ^ 1010

theorem rootUnit_pos : 0 < rootUnit := by unfold rootUnit; positivity

/-- 2^-10. -/
def coarseFrom : F64 := 0x3f50000000000000#64

theorem coarseFrom_scaled : coarseFrom.scaled = 2 ^ 54 * rootUnit := by decide +kernel

/-- From 2^-10 on, a binary64 value is a multiple of 2^-62. -/
theorem exists_coarse {c : F64} (h : coarseFrom.scaled ≤ c.scaled) : ∃ a : Int, c.scaled = 4 * a * rootUnit := by
  have hunit : ((2 ^ 1012 : Nat) : Int) = 4 * rootUnit := by decide +kernel
  have hbinade : ((2 ^ 52 * 2 ^ 1012 : Nat) : Int) = coarseFrom.scaled := by decide +kernel
  have hpos : (0 : Int) < coarseFrom.scaled := by decide +kernel
  have hmag : (c.mag : Int) = c.scaled := by
    rw [← F64.scaled_natAbs, Int.natAbs_of_nonneg (by omega)]
  obtain hdvd | hlt := F64.dvd_mag_or_lt c 1012
  · obtain ⟨a, ha⟩ := Int.natCast_dvd_natCast.2 hdvd
    refine ⟨a, ?_⟩
    rw [← hmag, ha, hunit]
    ring
  · have hlt' := Int.ofNat_lt.2 hlt
    rw [hbinade, hmag] at hlt'
    exact absurd h (not_le.2 hlt')

/-- A positive luminance has a root from 2^-9 on. -/
theorem two_pow_le_scaledRoot {y : Nat} (h : 1 ≤ y) : 2 ^ 54 ≤ scaledRoot y := by
  have hone : BelowRoot 1 (2 ^ 54) := by unfold BelowRoot; decide +kernel
  exact (scaledRoot_isGreatest y).2 ⟨by decide, hone.mono h⟩

/-! ### The nearest value -/

theorem lumPowRef_isFinite {y : Nat} (h : y ≤ 255000) : (lumPowRef y).isFinite = true :=
  ((isIntensity_iff _).1 (lumPowRef_isIntensity h)).1

/-- The reference is the one rounding of the sticky root. -/
theorem lumPowRef_isNearest {y : Nat} (h : y ≤ 255000) : (lumPowRef y).IsNearest 0 (stickyRoot y * rootUnit) := by
  have hfin := lumPowRef_isFinite h
  rw [lumPowRef_eq] at hfin ⊢
  have hnearest := F64.pack_roundMag_isNearest hfin
  have hcast : ((stickyRoot y * 2 ^ 1010 : Nat) : Int) = stickyRoot y * rootUnit := by
    rw [Nat.cast_mul, rootUnit, Nat.cast_pow, Nat.cast_ofNat]
  rwa [if_neg (by decide), hcast] at hnearest

/-- The real power in units of 2^-1074. -/
noncomputable def scaledPower (y : Nat) : ℝ := realPower y * 2 ^ 63 * (2 * rootUnit)

theorem scaledPower_eq (y : Nat) : scaledPower y = realPower y * 2 ^ 1074 := by
  have hunit : (2 : ℝ) ^ 1074 = 2 ^ 63 * (2 * rootUnit) := by
    rw [rootUnit, Int.cast_pow, Int.cast_ofNat, ← pow_succ', ← pow_add]
  rw [scaledPower, hunit, mul_assoc]

/-- The real power lies between the even multiples of the unit around the sticky root. -/
theorem scaledPower_bracket {y : Nat} (h : y ≤ 255000) :
    2 * (scaledRoot y : Int) * rootUnit ≤ scaledPower y ∧
      scaledPower y ≤ (2 * (scaledRoot y : Int) + 2) * rootUnit := by
  have hupos : (0 : ℝ) < rootUnit := by exact_mod_cast rootUnit_pos
  have htwo : (0 : ℝ) ≤ 2 * rootUnit := by linarith
  obtain ⟨hlo, hhi⟩ := scaledRoot_bracket h
  have hlower := mul_le_mul_of_nonneg_right hlo htwo
  have hupper := mul_le_mul_of_nonneg_right hhi.le htwo
  rw [scaledPower]
  push_cast
  exact ⟨by linarith, by linarith⟩

/-- Where the root is exact, what is rounded is the real power itself. -/
theorem lumPowRef_nearest_of_exactRoot {y : Nat} (h : y ≤ 255000) (hroot : ExactRoot y (scaledRoot y)) (c : F64) :
    |((lumPowRef y).scaled : ℝ) - scaledPower y| ≤ |(c.scaled : ℝ) - scaledPower y| := by
  have hpower : scaledPower y = (stickyRoot y * rootUnit : Int) := by
    rw [scaledPower, ← (exactRoot_iff y _).1 hroot, stickyRoot_of_exactRoot hroot]
    push_cast
    ring
  obtain ⟨hle, -⟩ := lumPowRef_isNearest h c
  rw [pow_zero, mul_one, mul_one] at hle
  rw [hpower]
  exact_mod_cast hle

/-- Where it is not, the sticky bit decides between the values from 2^-10 on, and the others are farther than 2^-10. -/
theorem lumPowRef_nearest_of_not_exactRoot {y : Nat} (h : y ≤ 255000) (hroot : ¬ ExactRoot y (scaledRoot y)) (c : F64) :
    |((lumPowRef y).scaled : ℝ) - scaledPower y| ≤ |(c.scaled : ℝ) - scaledPower y| := by
  have hy : 1 ≤ y := by
    have hzero : ExactRoot 0 (scaledRoot 0) := by unfold ExactRoot; decide +kernel
    by_contra hlt
    obtain rfl : y = 0 := by omega
    exact hroot hzero
  have hupos : (0 : ℝ) < rootUnit := by exact_mod_cast rootUnit_pos
  have hr := two_pow_le_scaledRoot hy
  have hsticky : ((stickyRoot y : Nat) : Int) = 2 * scaledRoot y + 1 := by
    rw [stickyRoot_of_not_exactRoot hroot]
    push_cast
    rfl
  have hnearest := lumPowRef_isNearest h
  rw [hsticky] at hnearest
  obtain ⟨hlower, hupper⟩ := scaledPower_bracket h
  have hcoarse : coarseFrom.scaled ≤ (2 * (scaledRoot y : Int) + 1) * rootUnit := by
    rw [coarseFrom_scaled]
    exact mul_le_mul_of_nonneg_right (by omega) rootUnit_pos.le
  obtain ⟨a, ha⟩ := exists_coarse (hnearest.ge (by rwa [pow_zero, mul_one]))
  have hamong {c : F64} (hc : coarseFrom.scaled ≤ c.scaled) :
      |((lumPowRef y).scaled : ℝ) - scaledPower y| ≤ |(c.scaled : ℝ) - scaledPower y| := by
    obtain ⟨b, hb⟩ := exists_coarse hc
    obtain ⟨hle, -⟩ := hnearest c
    rw [pow_zero, mul_one, mul_one, ha, hb, ← sub_mul, ← sub_mul, abs_mul, abs_mul] at hle
    have hab := le_of_mul_le_mul_right hle (abs_pos.2 rootUnit_pos.ne')
    rw [ha, hb]
    push_cast
    exact sticky_nearest hupos (by exact_mod_cast hlower) (by exact_mod_cast hupper) hab
  obtain hc | hc := le_or_gt coarseFrom.scaled c.scaled
  · exact hamong hc
  · refine (hamong le_rfl).trans ?_
    have hbelow : (coarseFrom.scaled : ℝ) ≤ scaledPower y := by
      refine le_trans ?_ hlower
      rw [coarseFrom_scaled]
      have hint : 2 ^ 54 * rootUnit ≤ 2 * (scaledRoot y : Int) * rootUnit :=
        mul_le_mul_of_nonneg_right (by omega) rootUnit_pos.le
      exact_mod_cast hint
    have hcR : (c.scaled : ℝ) ≤ coarseFrom.scaled := by exact_mod_cast hc.le
    rw [abs_of_nonpos (by linarith), abs_of_nonpos (by linarith)]
    linarith

end Sys2Proof.Machine

namespace Sys2Proof.Proofs

open Sys2Proof.Machine

/-- Settles O4: the rounding of the sticky root is nearest to the real power, in units of 2^-1074. -/
theorem referenceLumPowIsNearestToRealPower : Obligations.ReferenceLumPowIsNearestToRealPower := by
  intro y hy
  refine ⟨lumPowRef_isFinite hy, fun c _ => ?_⟩
  have hunit (x : ℝ) : |x / 2 ^ 1074 - realPower y| = |x - scaledPower y| / 2 ^ 1074 := by
    have hpos : (0 : ℝ) < 2 ^ 1074 := by positivity
    rw [scaledPower_eq, ← abs_of_pos hpos, ← abs_div, abs_of_pos hpos, sub_div, mul_div_cancel_right₀ _ hpos.ne']
  show |_ / _ - realPower y| ≤ |_ / _ - realPower y|
  rw [hunit, hunit]
  refine div_le_div_of_nonneg_right ?_ (by positivity)
  by_cases hroot : ExactRoot y (scaledRoot y)
  · exact lumPowRef_nearest_of_exactRoot hy hroot c
  · exact lumPowRef_nearest_of_not_exactRoot hy hroot c

end Sys2Proof.Proofs
end
